-- ==== Sys2Proof/Word.lean ====
section
/-! DEFINITION. The widths of the CORE's values (spec/00_scope.md R7, R9, R10). -/

namespace Sys2Proof

/-- A memory byte, a V register, DT or ST: 8 bits (10_state.md R21, R30, R31). -/
abbrev Byte := BitVec 8

/-- An instruction word, I, PC or a stack slot: 16 bits (10_state.md R25, R27, R29; 30_encoding.md R90). -/
abbrev Word := BitVec 16

/-- A 4-bit field of an instruction word: a register number `x` or `y`, the row count `n`, the family
nibble `op`, or a low-nibble selector (30_encoding.md R91, R93). -/
abbrev Nibble := BitVec 4

/-- A register number 0x0-0xF (10_state.md R21). -/
abbrev RegIdx := Nibble

/-- The 12-bit address field `nnn` (30_encoding.md R91). -/
abbrev Addr12 := BitVec 12

/-- The framebuffer bitplane: 2048 one-bit pixels, bit `y*64 + x` is pixel (x, y) (10_state.md R33). -/
abbrev Bitplane := BitVec 2048

end Sys2Proof
end

