-- ==== Sys2Proof/Syntax.lean ====
section
/-! DEFINITION. The instructions: one constructor per row of spec/opcode_table.json, with the operand
fields of the row's format (spec/30_encoding.md R91-R94). Fields an instruction ignores (the y of SHR and
SHL, every field of an unrecognized word) are kept, so that an instruction determines its word. -/

namespace Sys2Proof

inductive Instr where
  /-- 00E0 CLS (R140). -/
  | cls
  /-- 00EE RET (R151). -/
  | ret
  /-- 1nnn JP nnn (R152). -/
  | jp (nnn : Addr12)
  /-- 2nnn CALL nnn (R153). -/
  | call (nnn : Addr12)
  /-- 3xkk SE Vx, kk (R154). -/
  | seImm (x : RegIdx) (kk : Byte)
  /-- 4xkk SNE Vx, kk (R155). -/
  | sneImm (x : RegIdx) (kk : Byte)
  /-- 5xy0 SE Vx, Vy (R156). -/
  | seReg (x y : RegIdx)
  /-- 6xkk LD Vx, kk (R172). -/
  | ldImm (x : RegIdx) (kk : Byte)
  /-- 7xkk ADD Vx, kk (R173). -/
  | addImm (x : RegIdx) (kk : Byte)
  /-- 8xy0 LD Vx, Vy (R174). -/
  | ldReg (x y : RegIdx)
  /-- 8xy1 OR Vx, Vy (R175). -/
  | orReg (x y : RegIdx)
  /-- 8xy2 AND Vx, Vy (R176). -/
  | andReg (x y : RegIdx)
  /-- 8xy3 XOR Vx, Vy (R177). -/
  | xorReg (x y : RegIdx)
  /-- 8xy4 ADD Vx, Vy (R178). -/
  | addReg (x y : RegIdx)
  /-- 8xy5 SUB Vx, Vy (R179). -/
  | sub (x y : RegIdx)
  /-- 8xy6 SHR Vx, Vy; y is present and ignored (R180). -/
  | shr (x y : RegIdx)
  /-- 8xy7 SUBN Vx, Vy (R181). -/
  | subn (x y : RegIdx)
  /-- 8xyE SHL Vx, Vy; y is present and ignored (R182). -/
  | shl (x y : RegIdx)
  /-- 9xy0 SNE Vx, Vy (R157). -/
  | sneReg (x y : RegIdx)
  /-- Annn LD I, nnn (R201). -/
  | ldI (nnn : Addr12)
  /-- Bnnn JP V0, nnn (R158). -/
  | jpV0 (nnn : Addr12)
  /-- Cxkk RND Vx, kk (R220). -/
  | rnd (x : RegIdx) (kk : Byte)
  /-- Dxyn DRW Vx, Vy, n (R141). -/
  | drw (x y : RegIdx) (n : Nibble)
  /-- Ex9E SKP Vx (R221). -/
  | skp (x : RegIdx)
  /-- ExA1 SKNP Vx (R222). -/
  | sknp (x : RegIdx)
  /-- Fx07 LD Vx, DT (R223). -/
  | ldVxDt (x : RegIdx)
  /-- Fx0A LD Vx, K (R224). -/
  | ldVxK (x : RegIdx)
  /-- Fx15 LD DT, Vx (R225). -/
  | ldDtVx (x : RegIdx)
  /-- Fx18 LD ST, Vx (R226). -/
  | ldStVx (x : RegIdx)
  /-- Fx1E ADD I, Vx (R202). -/
  | addIVx (x : RegIdx)
  /-- Fx29 LD F, Vx (R203). -/
  | ldFVx (x : RegIdx)
  /-- Fx33 LD B, Vx (R204). -/
  | ldBVx (x : RegIdx)
  /-- Fx55 LD [I], Vx (R205). -/
  | ldMemVx (x : RegIdx)
  /-- Fx65 LD Vx, [I] (R206). -/
  | ldVxMem (x : RegIdx)
  /-- 0nnn other than 00E0 and 00EE: unrecognized (R96, R126). -/
  | unrec0nnn (nnn : Addr12)
  /-- 5xyn with n other than 0: unrecognized (R96, R126). -/
  | unrec5xyn (x y : RegIdx) (n : Nibble)
  /-- 8xy8: unrecognized (R96, R126). -/
  | unrec8xy8 (x y : RegIdx)
  /-- 8xy9: unrecognized (R96, R126). -/
  | unrec8xy9 (x y : RegIdx)
  /-- 8xyA: unrecognized (R96, R126). -/
  | unrec8xyA (x y : RegIdx)
  /-- 8xyB: unrecognized (R96, R126). -/
  | unrec8xyB (x y : RegIdx)
  /-- 8xyC: unrecognized (R96, R126). -/
  | unrec8xyC (x y : RegIdx)
  /-- 8xyD: unrecognized (R96, R126). -/
  | unrec8xyD (x y : RegIdx)
  /-- 8xyF: unrecognized (R96, R126). -/
  | unrec8xyF (x y : RegIdx)
  /-- 9xyn with n other than 0: unrecognized (R96, R126). -/
  | unrec9xyn (x y : RegIdx) (n : Nibble)
  /-- Exkk with kk other than 9E, A1: unrecognized (R96, R126). -/
  | unrecExkk (x : RegIdx) (kk : Byte)
  /-- Fxkk with kk other than 07, 0A, 15, 18, 1E, 29, 33, 55, 65: unrecognized (R96, R126). -/
  | unrecFxkk (x : RegIdx) (kk : Byte)
  deriving DecidableEq, Repr

/-- The 12 unrecognized classes of 30_encoding.md R96, which run as no-ops. -/
def Instr.isUnrecognized : Instr → Bool
  | .unrec0nnn _ | .unrec5xyn _ _ _ | .unrec8xy8 _ _ | .unrec8xy9 _ _ | .unrec8xyA _ _ | .unrec8xyB _ _
  | .unrec8xyC _ _ | .unrec8xyD _ _ | .unrec8xyF _ _ | .unrec9xyn _ _ _ | .unrecExkk _ _
  | .unrecFxkk _ _ => true
  | .cls | .ret | .jp _ | .call _ | .seImm _ _ | .sneImm _ _ | .seReg _ _ | .ldImm _ _ | .addImm _ _
  | .ldReg _ _ | .orReg _ _ | .andReg _ _ | .xorReg _ _ | .addReg _ _ | .sub _ _ | .shr _ _ | .subn _ _
  | .shl _ _ | .sneReg _ _ | .ldI _ | .jpV0 _ | .rnd _ _ | .drw _ _ _ | .skp _ | .sknp _ | .ldVxDt _
  | .ldVxK _ | .ldDtVx _ | .ldStVx _ | .addIVx _ | .ldFVx _ | .ldBVx _ | .ldMemVx _ | .ldVxMem _ => false

end Sys2Proof
end

