-- ==== Sys2Proof/WellFormed.lean ====
section
/-! DEFINITION. Which terms of Instr are the reading of some word: every operand field is of its width by
its type, and an unrecognized word is not one of its family's instructions (spec/30_encoding.md R96). -/

namespace Sys2Proof

/-- The low-byte selectors of family E (30_encoding.md R94). -/
def selectorsE : List Byte := [0x9E#8, 0xA1#8]

/-- The low-byte selectors of family F (30_encoding.md R94). -/
def selectorsF : List Byte := [0x07#8, 0x0A#8, 0x15#8, 0x18#8, 0x1E#8, 0x29#8, 0x33#8, 0x55#8, 0x65#8]

/-- Well-formed: an unrecognized class does not hold a word of an instruction (30_encoding.md R96). -/
def Instr.wellFormed : Instr → Bool
  | .unrec0nnn nnn => nnn != 0x0E0#12 && nnn != 0x0EE#12
  | .unrec5xyn _ _ n => n != 0#4
  | .unrec9xyn _ _ n => n != 0#4
  | .unrecExkk _ kk => !selectorsE.contains kk
  | .unrecFxkk _ kk => !selectorsF.contains kk
  | .unrec8xy8 _ _ | .unrec8xy9 _ _ | .unrec8xyA _ _ | .unrec8xyB _ _ | .unrec8xyC _ _ | .unrec8xyD _ _
  | .unrec8xyF _ _ => true
  | .cls | .ret | .jp _ | .call _ | .seImm _ _ | .sneImm _ _ | .seReg _ _ | .ldImm _ _ | .addImm _ _
  | .ldReg _ _ | .orReg _ _ | .andReg _ _ | .xorReg _ _ | .addReg _ _ | .sub _ _ | .shr _ _ | .subn _ _
  | .shl _ _ | .sneReg _ _ | .ldI _ | .jpV0 _ | .rnd _ _ | .drw _ _ _ | .skp _ | .sknp _ | .ldVxDt _
  | .ldVxK _ | .ldDtVx _ | .ldStVx _ | .addIVx _ | .ldFVx _ | .ldBVx _ | .ldMemVx _ | .ldVxMem _ => true

end Sys2Proof
end

