-- ==== Sys2Proof/Decode.lean ====
section
/-! DEFINITION. The decoder, total on all 65536 words (spec/30_encoding.md R94) and on any bytes, and the
encoder written from the same encodings (R91, R92, R95). -/

namespace Sys2Proof

/-- w[15:12], the family (30_encoding.md R91). -/
def opField (w : Word) : Nibble := w.extractLsb' 12 4

/-- w[11:8] (30_encoding.md R91). -/
def xField (w : Word) : Nibble := w.extractLsb' 8 4

/-- w[7:4] (30_encoding.md R91). -/
def yField (w : Word) : Nibble := w.extractLsb' 4 4

/-- w[3:0] (30_encoding.md R91). -/
def nField (w : Word) : Nibble := w.extractLsb' 0 4

/-- w[7:0] (30_encoding.md R91). -/
def kkField (w : Word) : Byte := w.extractLsb' 0 8

/-- w[11:0] (30_encoding.md R91). -/
def nnnField (w : Word) : Addr12 := w.extractLsb' 0 12

/-- Family 0: only the exact words 0x00E0 and 0x00EE are instructions (30_encoding.md R94, R95, D7). -/
def decode0 (w : Word) : Instr :=
  if w = 0x00E0#16 then .cls
  else if w = 0x00EE#16 then .ret
  else .unrec0nnn (nnnField w)

/-- Family 5: SE Vx, Vy needs n = 0 (30_encoding.md R94, R95, D7). -/
def decode5 (w : Word) : Instr :=
  if nField w = 0x0#4 then .seReg (xField w) (yField w)
  else .unrec5xyn (xField w) (yField w) (nField w)

/-- Family 8: the low nibble selects (30_encoding.md R94). -/
def decode8 (w : Word) : Instr :=
  let x := xField w
  let y := yField w
  let n := nField w
  if n = 0x0#4 then .ldReg x y
  else if n = 0x1#4 then .orReg x y
  else if n = 0x2#4 then .andReg x y
  else if n = 0x3#4 then .xorReg x y
  else if n = 0x4#4 then .addReg x y
  else if n = 0x5#4 then .sub x y
  else if n = 0x6#4 then .shr x y
  else if n = 0x7#4 then .subn x y
  else if n = 0xE#4 then .shl x y
  else if n = 0x8#4 then .unrec8xy8 x y
  else if n = 0x9#4 then .unrec8xy9 x y
  else if n = 0xA#4 then .unrec8xyA x y
  else if n = 0xB#4 then .unrec8xyB x y
  else if n = 0xC#4 then .unrec8xyC x y
  else if n = 0xD#4 then .unrec8xyD x y
  else .unrec8xyF x y

/-- Family 9: SNE Vx, Vy needs n = 0 (30_encoding.md R94, R95, D7). -/
def decode9 (w : Word) : Instr :=
  if nField w = 0x0#4 then .sneReg (xField w) (yField w)
  else .unrec9xyn (xField w) (yField w) (nField w)

/-- Family E: the low byte selects (30_encoding.md R94). -/
def decodeE (w : Word) : Instr :=
  if kkField w = 0x9E#8 then .skp (xField w)
  else if kkField w = 0xA1#8 then .sknp (xField w)
  else .unrecExkk (xField w) (kkField w)

/-- Family F: the low byte selects (30_encoding.md R94). -/
def decodeF (w : Word) : Instr :=
  let x := xField w
  let kk := kkField w
  if kk = 0x07#8 then .ldVxDt x
  else if kk = 0x0A#8 then .ldVxK x
  else if kk = 0x15#8 then .ldDtVx x
  else if kk = 0x18#8 then .ldStVx x
  else if kk = 0x1E#8 then .addIVx x
  else if kk = 0x29#8 then .ldFVx x
  else if kk = 0x33#8 then .ldBVx x
  else if kk = 0x55#8 then .ldMemVx x
  else if kk = 0x65#8 then .ldVxMem x
  else .unrecFxkk x kk

/-- The decode function of 30_encoding.md R94: select by w[15:12], then by the family's selector. -/
def decodeWord (w : Word) : Instr :=
  let op := opField w
  if op = 0x0#4 then decode0 w
  else if op = 0x1#4 then .jp (nnnField w)
  else if op = 0x2#4 then .call (nnnField w)
  else if op = 0x3#4 then .seImm (xField w) (kkField w)
  else if op = 0x4#4 then .sneImm (xField w) (kkField w)
  else if op = 0x5#4 then decode5 w
  else if op = 0x6#4 then .ldImm (xField w) (kkField w)
  else if op = 0x7#4 then .addImm (xField w) (kkField w)
  else if op = 0x8#4 then decode8 w
  else if op = 0x9#4 then decode9 w
  else if op = 0xA#4 then .ldI (nnnField w)
  else if op = 0xB#4 then .jpV0 (nnnField w)
  else if op = 0xC#4 then .rnd (xField w) (kkField w)
  else if op = 0xD#4 then .drw (xField w) (yField w) (nField w)
  else if op = 0xE#4 then decodeE w
  else decodeF w

/-- Why bytes hold no instruction. No word is illegal (30_encoding.md R97): the only reason is that
fewer than two bytes were given. -/
inductive DecodeError where
  | truncated
  deriving DecidableEq, Repr

/-- The word of two bytes, the first in bits 15-8 (big-endian; 20_memory.md R65, 30_encoding.md R90). -/
def wordOfBytes (hi lo : Byte) : Word := hi ++ lo

/-- The decoder on bytes in memory order: the instruction and the bytes after it. -/
def decodeBytes : List Byte → Except DecodeError (Instr × List Byte)
  | hi :: lo :: rest => .ok (decodeWord (wordOfBytes hi lo), rest)
  | [_] | [] => .error .truncated

/-- Format NNN: op[15:12] nnn[11:0] (30_encoding.md R92). -/
def formatNNN (op : Nibble) (nnn : Addr12) : Word := op ++ nnn

/-- Formats XKK and XSEL: op[15:12] x[11:8] kk[7:0] (30_encoding.md R92). -/
def formatXKK (op : Nibble) (x : RegIdx) (kk : Byte) : Word := op ++ x ++ kk

/-- Format XYN: op[15:12] x[11:8] y[7:4] n[3:0] (30_encoding.md R92). -/
def formatXYN (op : Nibble) (x y : RegIdx) (n : Nibble) : Word := op ++ x ++ y ++ n

/-- The word of an instruction (the encodings of 30_encoding.md R92, R94, R98). -/
def encode : Instr → Word
  | .cls => 0x00E0#16
  | .ret => 0x00EE#16
  | .jp nnn => formatNNN 0x1#4 nnn
  | .call nnn => formatNNN 0x2#4 nnn
  | .seImm x kk => formatXKK 0x3#4 x kk
  | .sneImm x kk => formatXKK 0x4#4 x kk
  | .seReg x y => formatXYN 0x5#4 x y 0x0#4
  | .ldImm x kk => formatXKK 0x6#4 x kk
  | .addImm x kk => formatXKK 0x7#4 x kk
  | .ldReg x y => formatXYN 0x8#4 x y 0x0#4
  | .orReg x y => formatXYN 0x8#4 x y 0x1#4
  | .andReg x y => formatXYN 0x8#4 x y 0x2#4
  | .xorReg x y => formatXYN 0x8#4 x y 0x3#4
  | .addReg x y => formatXYN 0x8#4 x y 0x4#4
  | .sub x y => formatXYN 0x8#4 x y 0x5#4
  | .shr x y => formatXYN 0x8#4 x y 0x6#4
  | .subn x y => formatXYN 0x8#4 x y 0x7#4
  | .shl x y => formatXYN 0x8#4 x y 0xE#4
  | .sneReg x y => formatXYN 0x9#4 x y 0x0#4
  | .ldI nnn => formatNNN 0xA#4 nnn
  | .jpV0 nnn => formatNNN 0xB#4 nnn
  | .rnd x kk => formatXKK 0xC#4 x kk
  | .drw x y n => formatXYN 0xD#4 x y n
  | .skp x => formatXKK 0xE#4 x 0x9E#8
  | .sknp x => formatXKK 0xE#4 x 0xA1#8
  | .ldVxDt x => formatXKK 0xF#4 x 0x07#8
  | .ldVxK x => formatXKK 0xF#4 x 0x0A#8
  | .ldDtVx x => formatXKK 0xF#4 x 0x15#8
  | .ldStVx x => formatXKK 0xF#4 x 0x18#8
  | .addIVx x => formatXKK 0xF#4 x 0x1E#8
  | .ldFVx x => formatXKK 0xF#4 x 0x29#8
  | .ldBVx x => formatXKK 0xF#4 x 0x33#8
  | .ldMemVx x => formatXKK 0xF#4 x 0x55#8
  | .ldVxMem x => formatXKK 0xF#4 x 0x65#8
  | .unrec0nnn nnn => formatNNN 0x0#4 nnn
  | .unrec5xyn x y n => formatXYN 0x5#4 x y n
  | .unrec8xy8 x y => formatXYN 0x8#4 x y 0x8#4
  | .unrec8xy9 x y => formatXYN 0x8#4 x y 0x9#4
  | .unrec8xyA x y => formatXYN 0x8#4 x y 0xA#4
  | .unrec8xyB x y => formatXYN 0x8#4 x y 0xB#4
  | .unrec8xyC x y => formatXYN 0x8#4 x y 0xC#4
  | .unrec8xyD x y => formatXYN 0x8#4 x y 0xD#4
  | .unrec8xyF x y => formatXYN 0x8#4 x y 0xF#4
  | .unrec9xyn x y n => formatXYN 0x9#4 x y n
  | .unrecExkk x kk => formatXKK 0xE#4 x kk
  | .unrecFxkk x kk => formatXKK 0xF#4 x kk

/-- The (mask, match) of an instruction's row of spec/opcode_table.json. -/
def tableRow : Instr → Word × Word
  | .cls => (0xFFFF#16, 0x00E0#16)
  | .ret => (0xFFFF#16, 0x00EE#16)
  | .jp _ => (0xF000#16, 0x1000#16)
  | .call _ => (0xF000#16, 0x2000#16)
  | .seImm _ _ => (0xF000#16, 0x3000#16)
  | .sneImm _ _ => (0xF000#16, 0x4000#16)
  | .seReg _ _ => (0xF00F#16, 0x5000#16)
  | .ldImm _ _ => (0xF000#16, 0x6000#16)
  | .addImm _ _ => (0xF000#16, 0x7000#16)
  | .ldReg _ _ => (0xF00F#16, 0x8000#16)
  | .orReg _ _ => (0xF00F#16, 0x8001#16)
  | .andReg _ _ => (0xF00F#16, 0x8002#16)
  | .xorReg _ _ => (0xF00F#16, 0x8003#16)
  | .addReg _ _ => (0xF00F#16, 0x8004#16)
  | .sub _ _ => (0xF00F#16, 0x8005#16)
  | .shr _ _ => (0xF00F#16, 0x8006#16)
  | .subn _ _ => (0xF00F#16, 0x8007#16)
  | .shl _ _ => (0xF00F#16, 0x800E#16)
  | .sneReg _ _ => (0xF00F#16, 0x9000#16)
  | .ldI _ => (0xF000#16, 0xA000#16)
  | .jpV0 _ => (0xF000#16, 0xB000#16)
  | .rnd _ _ => (0xF000#16, 0xC000#16)
  | .drw _ _ _ => (0xF000#16, 0xD000#16)
  | .skp _ => (0xF0FF#16, 0xE09E#16)
  | .sknp _ => (0xF0FF#16, 0xE0A1#16)
  | .ldVxDt _ => (0xF0FF#16, 0xF007#16)
  | .ldVxK _ => (0xF0FF#16, 0xF00A#16)
  | .ldDtVx _ => (0xF0FF#16, 0xF015#16)
  | .ldStVx _ => (0xF0FF#16, 0xF018#16)
  | .addIVx _ => (0xF0FF#16, 0xF01E#16)
  | .ldFVx _ => (0xF0FF#16, 0xF029#16)
  | .ldBVx _ => (0xF0FF#16, 0xF033#16)
  | .ldMemVx _ => (0xF0FF#16, 0xF055#16)
  | .ldVxMem _ => (0xF0FF#16, 0xF065#16)
  | .unrec0nnn _ => (0xF000#16, 0x0000#16)
  | .unrec5xyn _ _ _ => (0xF000#16, 0x5000#16)
  | .unrec8xy8 _ _ => (0xF00F#16, 0x8008#16)
  | .unrec8xy9 _ _ => (0xF00F#16, 0x8009#16)
  | .unrec8xyA _ _ => (0xF00F#16, 0x800A#16)
  | .unrec8xyB _ _ => (0xF00F#16, 0x800B#16)
  | .unrec8xyC _ _ => (0xF00F#16, 0x800C#16)
  | .unrec8xyD _ _ => (0xF00F#16, 0x800D#16)
  | .unrec8xyF _ _ => (0xF00F#16, 0x800F#16)
  | .unrec9xyn _ _ _ => (0xF000#16, 0x9000#16)
  | .unrecExkk _ _ => (0xF000#16, 0xE000#16)
  | .unrecFxkk _ _ => (0xF000#16, 0xF000#16)

/-- The two bytes of a word as memory holds them, lowest address first (20_memory.md R65). -/
def bytesOfWord (w : Word) : List Byte := [w.extractLsb' 8 8, w.extractLsb' 0 8]

/-- A word of the opcode table's numbering (bit 0 the least significant bit of the one 16-bit word), the
bits above `nbits` 0. -/
def tableWord (nbits w : Nat) : Word := BitVec.ofNat 16 (w % 2 ^ nbits)

/-- The host's question about the opcode table: the decoder's reading of a row's word, its bytes laid
out as memory holds them. -/
def decodeTableWord (nbits w : Nat) : Option Instr :=
  match decodeBytes (bytesOfWord (tableWord nbits w)) with
  | .ok (i, _) => some i
  | .error _ => none

end Sys2Proof
end

