-- ==== Sys2Proof/Config.lean ====
section
/-! DEFINITION. What is fixed for one CORE (spec/00_scope.md R7, R8): its sizes, the default of the
parameter GLYPH_ROM, the reset content of the rest of memory, and the free random draws. -/

namespace Sys2Proof.Config

/-- MAX_ADDR: the last address of the 4096-byte array (00_scope.md R7; 20_memory.md R60). -/
abbrev maxAddr : Nat := 0xFFF

/-- GLYPH_SIZE: the glyph ROM is 0x000-0x04F (00_scope.md R7; 20_memory.md R61). -/
abbrev glyphSize : Nat := 80

/-- PROGRAM_BASE: where a program is loaded and the reset value of PC (00_scope.md R7). -/
abbrev programBase : Nat := 0x200

/-- MAX_PROGRAM: 0xFFF - 0x200 + 1 bytes (00_scope.md R7). -/
abbrev maxProgram : Nat := 3584

/-- The last PC value a fetch is allowed at (40_engine_cycle.md R122). -/
abbrev maxFetch : Nat := 4094

/-- FB_WIDTH and FB_HEIGHT (00_scope.md R7). -/
abbrev fbWidth : Nat := 64
abbrev fbHeight : Nat := 32

/-- What memory above the glyph ROM holds at reset, hence what an unlisted cell there reads as:
0x00 (10_state.md R38, the spec's decision D2). DESIGN CHOICE of the spec, unsafe: log 2. -/
abbrev ramReset : Byte := 0x00#8

def glyphRows0to7 : List Byte :=
  [0xF0, 0x90, 0x90, 0x90, 0xF0] ++ [0x20, 0x60, 0x20, 0x20, 0x70] ++
  [0xF0, 0x10, 0xF0, 0x80, 0xF0] ++ [0xF0, 0x10, 0xF0, 0x10, 0xF0] ++
  [0x90, 0x90, 0xF0, 0x10, 0x10] ++ [0xF0, 0x80, 0xF0, 0x10, 0xF0] ++
  [0xF0, 0x80, 0xF0, 0x90, 0xF0] ++ [0xF0, 0x10, 0x20, 0x40, 0x40]

def glyphRows8toF : List Byte :=
  [0xF0, 0x90, 0xF0, 0x90, 0xF0] ++ [0xF0, 0x90, 0xF0, 0x10, 0xF0] ++
  [0xF0, 0x90, 0xF0, 0x90, 0x90] ++ [0xE0, 0x90, 0xE0, 0x90, 0xE0] ++
  [0xF0, 0x80, 0x80, 0x80, 0xF0] ++ [0xE0, 0x90, 0x90, 0x90, 0xE0] ++
  [0xF0, 0x80, 0xF0, 0x80, 0xF0] ++ [0xF0, 0x80, 0xF0, 0x80, 0x80]

/-- The default of the parameter GLYPH_ROM: the table of 10_state.md R31, digit d at 5*d..5*d+4, top row
first. PRESUMED by the spec (general knowledge, D3), unsafe for a claim about glyph pixels: log 3. The
machine takes its glyph ROM from the state (`Memory.glyph`); only `State.reset` uses this default. -/
def glyphRomDefault : Vector Byte glyphSize :=
  ⟨(glyphRows0to7 ++ glyphRows8toF).toArray, by decide⟩

/-- The n-th random draw: a FREE VALUE, a byte under no law (00_scope.md R14; 45_random_input_timers.md
R220, D11). No body: nothing can be proved of it, so a claim about Cxkk holds for every draw (log 4). -/
opaque draw : Nat → Byte

end Sys2Proof.Config
end

