-- ==== Sys2Proof/Machine/State.lean ====
section
/-! DEFINITION. The CORE's state as plain data (spec/10_state.md R20), the fault record (R37), the answers
of a step (spec/40_engine_cycle.md R120), and the state after reset (R38; spec/70_reset_and_hazards.md R280). -/

namespace Sys2Proof.Machine

/-- Which access an AddressFault is about (60_exceptions.md R240). -/
inductive Access where
  | fetch
  | dataRead
  | dataWrite
  deriving DecidableEq, Repr

/-- Which end of the call stack a StackFault is about (60_exceptions.md R240, R243). -/
inductive StackLimit where
  | overflow
  | underflow
  deriving DecidableEq, Repr

/-- The kinds of the spec's fault taxonomy (60_exceptions.md R240). -/
inductive FaultKind where
  | address (access : Access)
  | stack (limit : StackLimit)
  /-- Answered to the host by `load` with its code; never stored in Halt (R240, R256). -/
  | loaderOversize
  deriving DecidableEq, Repr

/-- FaultRecord (10_state.md R37): what Halt holds after a fault. -/
structure FaultRecord where
  kind   : FaultKind
  code   : Byte
  pc     : Word
  opcode : Option Word
  addr   : Option Nat
  deriving DecidableEq, Repr

/-- The memory array (10_state.md R31; 20_memory.md R60, R61): the glyph ROM 0x000-0x04F, which is the
spec's parameter GLYPH_ROM carried in the state (log 3), and the cells 0x050-0xFFF that do not hold their
reset content, in the one canonical form `Memory.wf` of Machine/Ops.lean. -/
structure Memory where
  glyph : Vector Byte Config.glyphSize
  cells : List Host.Cell
  deriving DecidableEq, Repr

/-- The state of the CORE (10_state.md R20), and `draws`, the model's own count of random draws taken. -/
structure State where
  /-- V0..VF (R21, R22). -/
  v     : Vector Byte 16
  /-- The index register I (R27). -/
  i     : Word
  /-- The program counter (R25). -/
  pc    : Word
  /-- SP, an integer in [0, 16] (R28). -/
  sp    : Fin 17
  /-- The 16 call-stack slots (R29). -/
  stack : Vector Word 16
  /-- The delay timer (R30). -/
  dt    : Byte
  /-- The sound timer (R30). -/
  st    : Byte
  /-- The input latch (R32). -/
  keys  : Vector Bool 16
  /-- The framebuffer (R33). -/
  fb    : Bitplane
  /-- The memory array (R31). -/
  mem   : Memory
  /-- Wait: the awaiting-key record of Fx0A (R36). -/
  wait  : Option RegIdx
  /-- Halt: the fault record (R37). -/
  halt  : Option FaultRecord
  /-- The MODEL'S field: how many free draws Cxkk has taken (R14; log 4). -/
  draws : Nat
  deriving DecidableEq, Repr

/-- What one step reports to its caller (40_engine_cycle.md R120). -/
inductive StepResult where
  | executed
  | waitingForInput
  | faulted (r : FaultRecord)
  deriving DecidableEq, Repr

/-- Reasons for which a step has no next state: NONE. The spec's faults (60_exceptions.md R240) are entered
as a next state whose Halt holds the record (R245), and a halted engine's step is a next state that changes
nothing (40_engine_cycle.md R127, R128); so this closed type has no constructor. Safe (log 26). -/
inductive Fault where
  deriving DecidableEq, Repr

/-- Reasons for which an instruction has no meaning. -/
inductive Refusal where
  /-- Raised only by an arm of `exec` whose instruction has no meaning yet; no arm does. Safe. -/
  | notModelled (mnemonic : String)
  deriving DecidableEq, Repr

/-- The state after construction with a given glyph table (10_state.md R38; 70_reset_and_hazards.md R280).
PC and the glyph ROM are stated by the source; every other value is the spec's decision D2 (DESIGN CHOICE,
unsafe: log 2). -/
def State.resetWith (glyph : Vector Byte Config.glyphSize) : State :=
  { v := Vector.replicate 16 0x00#8
    i := 0x0000#16
    pc := BitVec.ofNat 16 Config.programBase
    sp := 0
    stack := Vector.replicate 16 0x0000#16
    dt := 0x00#8
    st := 0x00#8
    keys := Vector.replicate 16 false
    fb := 0#2048
    mem := { glyph := glyph, cells := [] }
    wait := none
    halt := none
    draws := 0 }

/-- The machine right after reset, with the default GLYPH_ROM of 10_state.md R31. -/
def State.reset : State := State.resetWith Config.glyphRomDefault

end Sys2Proof.Machine
end

