-- ==== Sys2Proof/Machine/Ops.lean ====
section
/-! DEFINITION. The named operations over registers, memory, the call stack, the program counter, the
framebuffer and the fault record, which every meaning is written over (spec/00_scope.md R10-R13). -/

namespace Sys2Proof.Machine

/-- What a meaning answers. -/
abbrev Result := Host.Outcome State Fault Refusal

/-! ## Arithmetic (00_scope.md R10) -/

/-- wrap8(v) = v mod 256, in [0, 256) for negative v too (00_scope.md R10). -/
def wrap8 (v : Int) : Byte := BitVec.ofInt 8 v

/-- wrap16(v) = v mod 65536 (00_scope.md R10). -/
def wrap16 (v : Int) : Word := BitVec.ofInt 16 v

/-! ## Registers (00_scope.md R11) -/

/-- V[x] (10_state.md R21). -/
def State.readV (s : State) (x : RegIdx) : Byte := s.v[x.toNat]'x.isLt

/-- V[x] <- b (10_state.md R21). -/
def State.writeV (s : State) (x : RegIdx) (b : Byte) : State := { s with v := s.v.set x.toNat b x.isLt }

/-- I <- w. -/
def State.writeI (s : State) (w : Word) : State := { s with i := w }

/-- The k-th register of a block V0..Vx, k at most 15. -/
def regOfNat (k : Nat) : RegIdx := BitVec.ofNat 4 k

/-- The values of V0..Vx in order (44_index_memory.md R205). -/
def State.regsUpTo (s : State) (x : RegIdx) : List Byte :=
  (List.range (x.toNat + 1)).map fun k => s.readV (regOfNat k)

/-- Write bytes into consecutive registers from register k on (44_index_memory.md R206). -/
def State.writeRegsFrom (s : State) (k : Nat) : List Byte → State
  | [] => s
  | b :: bs => State.writeRegsFrom (s.writeV (regOfNat k) b) (k + 1) bs

/-- DT <- b (45_random_input_timers.md R225). -/
def State.writeDT (s : State) (b : Byte) : State := { s with dt := b }

/-- ST <- b (45_random_input_timers.md R226). -/
def State.writeST (s : State) (b : Byte) : State := { s with st := b }

/-- FB <- plane (10_state.md R33). -/
def State.writeFB (s : State) (plane : Bitplane) : State := { s with fb := plane }

/-- Mem <- m, the memory after an instruction's writes (20_memory.md R63). -/
def State.writeMem (s : State) (m : Memory) : State := { s with mem := m }

/-- Wait <- w (10_state.md R36). -/
def State.writeWait (s : State) (w : Option RegIdx) : State := { s with wait := w }

/-! ## The program counter (40_engine_cycle.md R124) -/

/-- PC <- PC + 2. -/
def State.advance (s : State) : State := { s with pc := s.pc + 2#16 }

/-- PC <- PC + 4 if the condition holds, else PC + 2: the six skip forms (40_engine_cycle.md R124). -/
def State.skipIf (s : State) (c : Bool) : State := { s with pc := if c then s.pc + 4#16 else s.pc + 2#16 }

/-- PC <- target, a sum on unbounded integers; every target a rule forms is at most 0x10FE and fits
(42_control_flow.md R150; 10_state.md R26). -/
def State.jumpTo (s : State) (target : Nat) : State := { s with pc := BitVec.ofNat 16 target }

/-! ## Faults (60_exceptions.md R240, R245; 00_scope.md R13) -/

/-- The numeric codes of 60_exceptions.md R240 (the spec's own assignment, D14). -/
def FaultKind.code : FaultKind → Byte
  | .address .fetch => 0x01#8
  | .address .dataRead => 0x02#8
  | .address .dataWrite => 0x03#8
  | .stack .overflow => 0x11#8
  | .stack .underflow => 0x12#8
  | .loaderOversize => 0x21#8

/-- Fault entry, the one way an instruction or a fetch faults: Halt <- Some(record), the record's pc the
address of the faulting instruction, and nothing else changes; control goes nowhere (60_exceptions.md R245;
00_scope.md R13). There is no return from a fault: only reset clears Halt (R246). -/
def State.raiseFault (s : State) (kind : FaultKind) (opcode : Option Word) (addr : Option Nat) : State :=
  { s with halt := some { kind := kind, code := kind.code, pc := s.pc, opcode := opcode, addr := addr } }

/-- A step of a halted engine changes nothing (40_engine_cycle.md R127, R128). -/
def haltedStep (s : State) : Result := .next s

/-! ## Memory (20_memory.md) -/

/-- What an unlisted address reads as: the glyph ROM below 0x050, the reset content of the rest above
(10_state.md R38). -/
def Memory.unlisted (m : Memory) (a : Nat) : Byte :=
  if h : a < Config.glyphSize then m.glyph[a] else Config.ramReset

/-- The byte listed for an address, or the default. -/
def cellsRead (default : Byte) : List Host.Cell → Nat → Byte
  | [], _ => default
  | (b, u) :: rest, a => if a = b then u else cellsRead default rest a

/-- MemRead(a, 1) (20_memory.md R62). -/
def Memory.read (m : Memory) (a : Nat) : Byte :=
  if a < Config.glyphSize then m.unlisted a else cellsRead (m.unlisted a) m.cells a

/-- List a byte at an address, addresses kept rising; the default byte is not listed. -/
def cellsWrite (default : Byte) (a : Nat) (v : Byte) : List Host.Cell → List Host.Cell
  | [] => if v = default then [] else [(a, v)]
  | (b, u) :: rest =>
    if a < b then (if v = default then (b, u) :: rest else (a, v) :: (b, u) :: rest)
    else if a = b then (if v = default then rest else (a, v) :: rest)
    else (b, u) :: cellsWrite default a v rest

/-- MemWrite(a, 1, v) (20_memory.md R63): a write into the glyph ROM is discarded. No instruction applies
it above 0xFFF (R64), where no byte exists and nothing is stored. -/
def Memory.write (m : Memory) (a : Nat) (v : Byte) : Memory :=
  if a < Config.glyphSize then m
  else if Config.maxAddr < a then m
  else { m with cells := cellsWrite Config.ramReset a v m.cells }

/-- MemWrite of consecutive bytes from an address on, ascending (20_memory.md R67). -/
def Memory.writeBlock (m : Memory) (a : Nat) : List Byte → Memory
  | [] => m
  | b :: bs => Memory.writeBlock (m.write a b) (a + 1) bs

/-- MemRead of n consecutive bytes from an address on, ascending (20_memory.md R67). -/
def Memory.readBlock (m : Memory) (a n : Nat) : List Byte := (List.range n).map fun k => m.read (a + k)

/-- The canonical form of the listed cells: addresses strictly rising, each in 0x050-0xFFF, no byte equal
to what an unlisted address reads as. Equal memories are then equal data. -/
abbrev Memory.wf (m : Memory) : Prop :=
  m.cells.Pairwise (fun c d => c.1 < d.1) ∧
    ∀ c ∈ m.cells, Config.glyphSize ≤ c.1 ∧ c.1 ≤ Config.maxAddr ∧ c.2 ≠ Config.ramReset

/-! ## Fetch (40_engine_cycle.md R122) -/

/-- Fetch16(PC), or none when PC > 4094 (40_engine_cycle.md R122; 20_memory.md R65). -/
def State.fetch (s : State) : Option Word :=
  if s.pc.toNat ≤ Config.maxFetch then
    some (wordOfBytes (s.mem.read s.pc.toNat) (s.mem.read (s.pc.toNat + 1)))
  else none

/-- The fetch fault: no opcode was read, addr is PC (40_engine_cycle.md R122, D27). -/
def fetchFault (s : State) : Result :=
  .next (s.raiseFault (.address .fetch) none (some s.pc.toNat))

/-! ## The call stack (10_state.md R28, R29) -/

/-- Stack[SP] <- PC; SP <- SP + 1, or none when SP = 16 (42_control_flow.md R153). -/
def State.pushPC (s : State) : Option State :=
  if h : s.sp.val < 16 then
    some { s with stack := s.stack.set s.sp.val s.pc h, sp := ⟨s.sp.val + 1, by omega⟩ }
  else none

/-- SP <- SP - 1 and the slot it then names, or none when SP = 0; the slot keeps its value
(42_control_flow.md R151; 10_state.md R29). -/
def State.popAddr (s : State) : Option (Word × State) :=
  if h : s.sp.val = 0 then none
  else some (s.stack[s.sp.val - 1]'(by omega), { s with sp := ⟨s.sp.val - 1, by omega⟩ })

/-! ## The framebuffer (10_state.md R33; 41_display.md) -/

/-- The index of pixel (x, y): y*64 + x (10_state.md R33). -/
def pixelIndex (x y : Nat) : Nat := y * Config.fbWidth + x

/-- FB[p]. -/
def State.pixel (s : State) (p : Nat) : Bool := s.fb.getLsbD p

/-- The pixels a sprite covers, in the order of 41_display.md R141's loops, with the sprite bit of each:
row i, column j is bit 7-j of byte i (D8), at ((X0 + j) mod 64, (Y0 + i) mod 32). -/
def spritePixels (x0 y0 : Byte) (rows : List Byte) : List (Nat × Bool) :=
  rows.zipIdx.flatMap fun r =>
    (List.range 8).map fun j =>
      (pixelIndex ((x0.toNat + j) % Config.fbWidth) ((y0.toNat + r.2) % Config.fbHeight),
       r.1.getLsbD (7 - j))

/-- XOR one sprite bit into one pixel; a pixel that goes from 1 to 0 sets the collision (41_display.md R141). -/
def blitPixel (acc : Bitplane × Bool) (p : Nat × Bool) : Bitplane × Bool :=
  if p.2 then (acc.1 ^^^ BitVec.twoPow 2048 p.1, acc.2 || acc.1.getLsbD p.1) else acc

/-- The whole draw: the new framebuffer and the collision, which starts at 0 and is never reset
(41_display.md R141). -/
def blit (fb : Bitplane) (pixels : List (Nat × Bool)) : Bitplane × Bool :=
  pixels.foldl blitPixel (fb, false)

/-! ## The input latch (10_state.md R32) -/

/-- Keys[k] for a key number 0..15; no key otherwise (45_random_input_timers.md R221, D9). -/
def State.keySet (s : State) (k : Nat) : Bool := if h : k < 16 then s.keys[k] else false

/-- The highest set key below n, if any (45_random_input_timers.md R224). -/
def State.highestKeyBelow (s : State) : Nat → Option Nat
  | 0 => none
  | n + 1 => if s.keySet n then some n else s.highestKeyBelow n

/-! ## Random draws (00_scope.md R14) -/

/-- draw(): the next free byte (log 4). -/
def State.nextDraw (s : State) : Byte := Config.draw s.draws

/-- The state that has taken its next draw (log 4). -/
def State.countDraw (s : State) : State := { s with draws := s.draws + 1 }

/-! ## The answer of a step (40_engine_cycle.md R120) -/

/-- What the step that left this state reports: Faulted while Halt is set, WaitingForInput while Wait is
set, else Executed (40_engine_cycle.md R120, R128; DEDUCED: log 27). -/
def State.stepResult (s : State) : StepResult :=
  match s.halt with
  | some r => .faulted r
  | none =>
    match s.wait with
    | some _ => .waitingForInput
    | none => .executed

/-! ## Placing an instruction (no operation of the machine) -/

/-- Put a byte at an address whatever stands there, the glyph ROM included. Used only to place the
instruction of `State.withFetchWord`. -/
def Memory.poke (m : Memory) (a : Nat) (b : Byte) : Memory :=
  if h : a < Config.glyphSize then { m with glyph := m.glyph.set a b } else m.write a b

/-- Put a word's two bytes at an address, as the fetch reads them (20_memory.md R65). -/
def Memory.pokeWord (m : Memory) (a : Nat) (w : Word) : Memory :=
  (m.poke a (w.extractLsb' 8 8)).poke (a + 1) (w.extractLsb' 0 8)

/-- The state in which the very next step fetches and runs the word: PC kept if a fetch is allowed there
(else the reset entry), no key wait, no fault, the word at PC. -/
def State.placeFetch (s : State) (w : Word) : State :=
  let pc := if s.pc.toNat ≤ Config.maxFetch then s.pc else BitVec.ofNat 16 Config.programBase
  { s with pc := pc, mem := s.mem.pokeWord pc.toNat w, wait := none, halt := none }

end Sys2Proof.Machine
end

