-- ==== Sys2Proof/Machine/Flags.lean ====
section
/-! DEFINITION. The flag computations: VF is the only flag, written by six instructions
(spec/10_state.md R35). -/

namespace Sys2Proof.Machine

/-- VF's index: register 0xF (10_state.md R22). -/
abbrev vf : RegIdx := 0xF#4

/-- A flag value as VF holds it: 1 or 0. -/
def flagByte (f : Bool) : Byte := if f then 1#8 else 0#8

/-- VF <- flag, the last write of a flag-writing instruction (43_alu.md R171). -/
def State.writeFlag (s : State) (f : Bool) : State := s.writeV vf (flagByte f)

/-- 8xy4: the unsigned sum exceeds 255 (43_alu.md R178). -/
def carryOut (a b : Byte) : Bool := decide (a.toNat + b.toNat > 255)

/-- 8xy5 and 8xy7: strictly greater, not greater or equal (43_alu.md R179, R181). -/
def strictlyGreater (a b : Byte) : Bool := decide (a.toNat > b.toNat)

/-- 8xy6: bit 0 before the shift (43_alu.md R180). -/
def shiftedOutRight (a : Byte) : Bool := a.getLsbD 0

/-- 8xyE: bit 7 before the shift (43_alu.md R182). -/
def shiftedOutLeft (a : Byte) : Bool := a.getLsbD 7

end Sys2Proof.Machine
end

