-- ==== Sys2Proof/Machine/Operands.lean ====
section
/-! DEFINITION. The operand forms of the spec (spec/30_encoding.md R93, spec/44_index_memory.md R200) and the
bound check of an I-relative access (spec/20_memory.md R64). -/

namespace Sys2Proof.Machine

/-- The address operand nnn as a 16-bit value: zext_16(nnn) (30_encoding.md R93). -/
def zext16 (nnn : Addr12) : Word := nnn.setWidth 16

/-- The address of the k-th byte of an I-relative access: I + k, unbounded (44_index_memory.md R200). -/
def State.indexAddr (s : State) (k : Nat) : Nat := s.i.toNat + k

/-- Whether an access to `count` bytes at I, I+1, ... reaches above 0xFFF; an access to no byte never does
(20_memory.md R64; 41_display.md R141). -/
def State.outOfRange (s : State) (count : Nat) : Bool :=
  0 < count && Config.maxAddr < s.indexAddr (count - 1)

/-- The addr of a data fault: max(I, 0x1000), the lowest out-of-range address (44_index_memory.md R200). -/
def State.faultAddr (s : State) : Nat := max s.i.toNat 0x1000

/-- Check every byte of an I-relative access before the first effect: an AddressFault, or the effect
(20_memory.md R64; 60_exceptions.md R242). -/
def withIndexAccess (access : Access) (w : Word) (count : Nat) (s : State) (effect : State) : Result :=
  if s.outOfRange count then .next (s.raiseFault (.address access) (some w) (some s.faultAddr))
  else .next effect

/-- The key an instruction names by a register's value: pressed only if 0..15 and set
(45_random_input_timers.md R221, R222). -/
def State.keyPressed (s : State) (x : RegIdx) : Bool := s.keySet (s.readV x).toNat

end Sys2Proof.Machine
end

