-- ==== Sys2Proof/Machine/Alu.lean ====
section
/-! DEFINITION. Immediate, move, bitwise, arithmetic and shift instructions (spec/43_alu.md). -/

namespace Sys2Proof.Machine

/-- V[x] <- result; PC <- PC + 2: an instruction that writes no flag. -/
def writeResult (x : RegIdx) (result : Byte) (s : State) : Result := .next (s.writeV x result).advance

/-- V[x] <- result; V[0xF] <- flag; PC <- PC + 2: the flag is written last, so that VF ends as the flag
for every x (43_alu.md R171, D6). -/
def writeResultFlag (x : RegIdx) (result : Byte) (flag : Bool) (s : State) : Result :=
  .next ((s.writeV x result).writeFlag flag).advance

/-- LD Vx, kk (43_alu.md R172). -/
def execLdImm (x : RegIdx) (kk : Byte) (s : State) : Result := writeResult x kk s

/-- ADD Vx, kk (43_alu.md R173): no flag. -/
def execAddImm (x : RegIdx) (kk : Byte) (s : State) : Result :=
  writeResult x (wrap8 ((s.readV x).toNat + kk.toNat)) s

/-- LD Vx, Vy (43_alu.md R174). -/
def execLdReg (x y : RegIdx) (s : State) : Result := writeResult x (s.readV y) s

/-- OR Vx, Vy (43_alu.md R175): VF unchanged (D26). -/
def execOrReg (x y : RegIdx) (s : State) : Result := writeResult x (s.readV x ||| s.readV y) s

/-- AND Vx, Vy (43_alu.md R176): VF unchanged (D26). -/
def execAndReg (x y : RegIdx) (s : State) : Result := writeResult x (s.readV x &&& s.readV y) s

/-- XOR Vx, Vy (43_alu.md R177): VF unchanged (D26). -/
def execXorReg (x y : RegIdx) (s : State) : Result := writeResult x (s.readV x ^^^ s.readV y) s

/-- ADD Vx, Vy (43_alu.md R178). -/
def execAddReg (x y : RegIdx) (s : State) : Result :=
  let a := s.readV x
  let b := s.readV y
  writeResultFlag x (wrap8 (a.toNat + b.toNat)) (carryOut a b) s

/-- SUB Vx, Vy (43_alu.md R179). -/
def execSub (x y : RegIdx) (s : State) : Result :=
  let a := s.readV x
  let b := s.readV y
  writeResultFlag x (wrap8 ((a.toNat : Int) - b.toNat)) (strictlyGreater a b) s

/-- SHR Vx, Vy (43_alu.md R180): Vx in place; y is ignored. -/
def execShr (x _y : RegIdx) (s : State) : Result :=
  let a := s.readV x
  writeResultFlag x (a >>> 1) (shiftedOutRight a) s

/-- SUBN Vx, Vy (43_alu.md R181). -/
def execSubn (x y : RegIdx) (s : State) : Result :=
  let a := s.readV x
  let b := s.readV y
  writeResultFlag x (wrap8 ((b.toNat : Int) - a.toNat)) (strictlyGreater b a) s

/-- SHL Vx, Vy (43_alu.md R182): Vx in place; y is ignored. -/
def execShl (x _y : RegIdx) (s : State) : Result :=
  let a := s.readV x
  writeResultFlag x (wrap8 (a.toNat <<< 1 : Nat)) (shiftedOutLeft a) s

end Sys2Proof.Machine
end

