-- ==== Sys2Proof/Machine/ControlFlow.lean ====
section
/-! DEFINITION. Jumps, call and return, the four register and immediate skips (spec/42_control_flow.md). -/

namespace Sys2Proof.Machine

/-- RET (42_control_flow.md R151): PC <- popped address + 2, or StackFault UNDERFLOW. -/
def execRet (s : State) : Result :=
  match s.popAddr with
  | some (a, t) => .next (t.jumpTo (a.toNat + 2))
  | none => .next (s.raiseFault (.stack .underflow) (some (encode .ret)) none)

/-- JP nnn (42_control_flow.md R152). -/
def execJp (nnn : Addr12) (s : State) : Result := .next (s.jumpTo nnn.toNat)

/-- CALL nnn (42_control_flow.md R153): push PC itself, or StackFault OVERFLOW. -/
def execCall (nnn : Addr12) (s : State) : Result :=
  match s.pushPC with
  | some t => .next (t.jumpTo nnn.toNat)
  | none => .next (s.raiseFault (.stack .overflow) (some (encode (.call nnn))) none)

/-- SE Vx, kk (42_control_flow.md R154). -/
def execSeImm (x : RegIdx) (kk : Byte) (s : State) : Result := .next (s.skipIf (s.readV x == kk))

/-- SNE Vx, kk (42_control_flow.md R155). -/
def execSneImm (x : RegIdx) (kk : Byte) (s : State) : Result := .next (s.skipIf (s.readV x != kk))

/-- SE Vx, Vy (42_control_flow.md R156). -/
def execSeReg (x y : RegIdx) (s : State) : Result := .next (s.skipIf (s.readV x == s.readV y))

/-- SNE Vx, Vy (42_control_flow.md R157). -/
def execSneReg (x y : RegIdx) (s : State) : Result := .next (s.skipIf (s.readV x != s.readV y))

/-- JP V0, nnn (42_control_flow.md R158): the unbounded sum nnn + V0. -/
def execJpV0 (nnn : Addr12) (s : State) : Result := .next (s.jumpTo (nnn.toNat + (s.readV 0#4).toNat))

end Sys2Proof.Machine
end

