-- ==== Sys2Proof/Machine/Display.lean ====
section
/-! DEFINITION. CLS and DRW (spec/41_display.md). -/

namespace Sys2Proof.Machine

/-- CLS (41_display.md R140). -/
def execCls (s : State) : Result := .next (s.writeFB 0#2048).advance

/-- What DRW computes from the values held before it: the new framebuffer and the collision
(41_display.md R141). -/
def State.drawSprite (s : State) (x y : RegIdx) (n : Nibble) : Bitplane × Bool :=
  blit s.fb (spritePixels (s.readV x) (s.readV y) (s.mem.readBlock (s.indexAddr 0) n.toNat))

/-- DRW Vx, Vy, n (41_display.md R141): coordinates sampled first, VF written last. -/
def execDrw (x y : RegIdx) (n : Nibble) (s : State) : Result :=
  let d := s.drawSprite x y n
  withIndexAccess .dataRead (encode (.drw x y n)) n.toNat s ((s.writeFB d.1).writeFlag d.2).advance

end Sys2Proof.Machine
end

