-- ==== Sys2Proof/Machine/IndexMemory.lean ====
section
/-! DEFINITION. The index register and the memory instructions through it (spec/44_index_memory.md). -/

namespace Sys2Proof.Machine

/-- LD I, nnn (44_index_memory.md R201). -/
def execLdI (nnn : Addr12) (s : State) : Result := .next (s.writeI (zext16 nnn)).advance

/-- ADD I, Vx (44_index_memory.md R202): mod 65536, no flag (D17). -/
def execAddIVx (x : RegIdx) (s : State) : Result :=
  .next (s.writeI (wrap16 (s.i.toNat + (s.readV x).toNat))).advance

/-- The start of the glyph of a value's low nibble: (value & 0x0F) * 5 (44_index_memory.md R203). -/
def glyphAddr (b : Byte) : Word := BitVec.ofNat 16 ((b &&& 0x0F#8).toNat * 5)

/-- LD F, Vx (44_index_memory.md R203). -/
def execLdFVx (x : RegIdx) (s : State) : Result := .next (s.writeI (glyphAddr (s.readV x))).advance

/-- The BCD decoder: hundreds, tens, ones (44_index_memory.md R204). -/
def bcdDigits (b : Byte) : List Byte :=
  [BitVec.ofNat 8 (b.toNat / 100), BitVec.ofNat 8 (b.toNat / 10 % 10), BitVec.ofNat 8 (b.toNat % 10)]

/-- LD B, Vx (44_index_memory.md R204): I unchanged. -/
def execLdBVx (x : RegIdx) (s : State) : Result :=
  withIndexAccess .dataWrite (encode (.ldBVx x)) 3 s
    (s.writeMem (s.mem.writeBlock (s.indexAddr 0) (bcdDigits (s.readV x)))).advance

/-- LD [I], Vx (44_index_memory.md R205): V0..Vx stored from I on, I unchanged (D18). -/
def execLdMemVx (x : RegIdx) (s : State) : Result :=
  withIndexAccess .dataWrite (encode (.ldMemVx x)) (x.toNat + 1) s
    (s.writeMem (s.mem.writeBlock (s.indexAddr 0) (s.regsUpTo x))).advance

/-- LD Vx, [I] (44_index_memory.md R206): V0..Vx loaded from I on, I unchanged (D18). -/
def execLdVxMem (x : RegIdx) (s : State) : Result :=
  withIndexAccess .dataRead (encode (.ldVxMem x)) (x.toNat + 1) s
    (s.writeRegsFrom 0 (s.mem.readBlock (s.indexAddr 0) (x.toNat + 1))).advance

end Sys2Proof.Machine
end

