-- ==== Sys2Proof/Machine/RandomInputTimers.lean ====
section
/-! DEFINITION. Random byte, key skips, key wait and timer moves (spec/45_random_input_timers.md). -/

namespace Sys2Proof.Machine

/-- RND Vx, kk (45_random_input_timers.md R220): a free draw, masked. -/
def execRnd (x : RegIdx) (kk : Byte) (s : State) : Result :=
  .next (s.countDraw.writeV x (s.nextDraw &&& kk)).advance

/-- SKP Vx (45_random_input_timers.md R221). -/
def execSkp (x : RegIdx) (s : State) : Result := .next (s.skipIf (s.keyPressed x))

/-- SKNP Vx (45_random_input_timers.md R222). -/
def execSknp (x : RegIdx) (s : State) : Result := .next (s.skipIf (!s.keyPressed x))

/-- LD Vx, DT (45_random_input_timers.md R223). -/
def execLdVxDt (x : RegIdx) (s : State) : Result := .next (s.writeV x s.dt).advance

/-- keyWaitResume(x) (45_random_input_timers.md R224): the highest set key completes the instruction and
ends the wait; with no key set, Wait <- Some(x) and PC stays. -/
def keyWaitResume (x : RegIdx) (s : State) : Result :=
  match s.highestKeyBelow 16 with
  | some k => .next ((s.writeWait none).writeV x (BitVec.ofNat 8 k)).advance
  | none => .next (s.writeWait (some x))

/-- LD Vx, K (45_random_input_timers.md R224): the first check is the same as every later one. -/
def execLdVxK (x : RegIdx) (s : State) : Result := keyWaitResume x s

/-- LD DT, Vx (45_random_input_timers.md R225). -/
def execLdDtVx (x : RegIdx) (s : State) : Result := .next (s.writeDT (s.readV x)).advance

/-- LD ST, Vx (45_random_input_timers.md R226). -/
def execLdStVx (x : RegIdx) (s : State) : Result := .next (s.writeST (s.readV x)).advance

end Sys2Proof.Machine
end

