-- ==== Sys2Proof/Machine/Unrecognized.lean ====
section
/-! DEFINITION. Unrecognized words: a no-op that advances PC by 2 (spec/40_engine_cycle.md R126;
spec/30_encoding.md R96). One meaning per row of the opcode table. -/

namespace Sys2Proof.Machine

/-- PC <- PC + 2 and nothing else; never a fault (40_engine_cycle.md R126; 60_exceptions.md R244). -/
def noOperation (s : State) : Result := .next s.advance

/-- 0nnn other than 00E0, 00EE (R126). -/
def execUnrec0nnn (_nnn : Addr12) (s : State) : Result := noOperation s

/-- 5xyn, n other than 0 (R126). -/
def execUnrec5xyn (_x _y : RegIdx) (_n : Nibble) (s : State) : Result := noOperation s

/-- 8xy8 (R126). -/
def execUnrec8xy8 (_x _y : RegIdx) (s : State) : Result := noOperation s

/-- 8xy9 (R126). -/
def execUnrec8xy9 (_x _y : RegIdx) (s : State) : Result := noOperation s

/-- 8xyA (R126). -/
def execUnrec8xyA (_x _y : RegIdx) (s : State) : Result := noOperation s

/-- 8xyB (R126). -/
def execUnrec8xyB (_x _y : RegIdx) (s : State) : Result := noOperation s

/-- 8xyC (R126). -/
def execUnrec8xyC (_x _y : RegIdx) (s : State) : Result := noOperation s

/-- 8xyD (R126). -/
def execUnrec8xyD (_x _y : RegIdx) (s : State) : Result := noOperation s

/-- 8xyF (R126). -/
def execUnrec8xyF (_x _y : RegIdx) (s : State) : Result := noOperation s

/-- 9xyn, n other than 0 (R126). -/
def execUnrec9xyn (_x _y : RegIdx) (_n : Nibble) (s : State) : Result := noOperation s

/-- Exkk, kk no selector of the family (R126). -/
def execUnrecExkk (_x : RegIdx) (_kk : Byte) (s : State) : Result := noOperation s

/-- Fxkk, kk no selector of the family (R126). -/
def execUnrecFxkk (_x : RegIdx) (_kk : Byte) (s : State) : Result := noOperation s

end Sys2Proof.Machine
end

