-- ==== Sys2Proof/Machine/Dispatch.lean ====
section
/-! DEFINITION. execute(inst, w): one arm per instruction (spec/40_engine_cycle.md R123). -/

namespace Sys2Proof.Machine

def exec (i : Instr) (s : State) : Host.Outcome State Fault Refusal :=
  match i with
  | .cls => Sys2Proof.Machine.execCls s
  | .ret => Sys2Proof.Machine.execRet s
  | .jp nnn => Sys2Proof.Machine.execJp nnn s
  | .call nnn => Sys2Proof.Machine.execCall nnn s
  | .seImm x kk => Sys2Proof.Machine.execSeImm x kk s
  | .sneImm x kk => Sys2Proof.Machine.execSneImm x kk s
  | .seReg x y => Sys2Proof.Machine.execSeReg x y s
  | .ldImm x kk => Sys2Proof.Machine.execLdImm x kk s
  | .addImm x kk => Sys2Proof.Machine.execAddImm x kk s
  | .ldReg x y => Sys2Proof.Machine.execLdReg x y s
  | .orReg x y => Sys2Proof.Machine.execOrReg x y s
  | .andReg x y => Sys2Proof.Machine.execAndReg x y s
  | .xorReg x y => Sys2Proof.Machine.execXorReg x y s
  | .addReg x y => Sys2Proof.Machine.execAddReg x y s
  | .sub x y => Sys2Proof.Machine.execSub x y s
  | .shr x y => Sys2Proof.Machine.execShr x y s
  | .subn x y => Sys2Proof.Machine.execSubn x y s
  | .shl x y => Sys2Proof.Machine.execShl x y s
  | .sneReg x y => Sys2Proof.Machine.execSneReg x y s
  | .ldI nnn => Sys2Proof.Machine.execLdI nnn s
  | .jpV0 nnn => Sys2Proof.Machine.execJpV0 nnn s
  | .rnd x kk => Sys2Proof.Machine.execRnd x kk s
  | .drw x y n => Sys2Proof.Machine.execDrw x y n s
  | .skp x => Sys2Proof.Machine.execSkp x s
  | .sknp x => Sys2Proof.Machine.execSknp x s
  | .ldVxDt x => Sys2Proof.Machine.execLdVxDt x s
  | .ldVxK x => Sys2Proof.Machine.execLdVxK x s
  | .ldDtVx x => Sys2Proof.Machine.execLdDtVx x s
  | .ldStVx x => Sys2Proof.Machine.execLdStVx x s
  | .addIVx x => Sys2Proof.Machine.execAddIVx x s
  | .ldFVx x => Sys2Proof.Machine.execLdFVx x s
  | .ldBVx x => Sys2Proof.Machine.execLdBVx x s
  | .ldMemVx x => Sys2Proof.Machine.execLdMemVx x s
  | .ldVxMem x => Sys2Proof.Machine.execLdVxMem x s
  | .unrec0nnn nnn => Sys2Proof.Machine.execUnrec0nnn nnn s
  | .unrec5xyn x y n => Sys2Proof.Machine.execUnrec5xyn x y n s
  | .unrec8xy8 x y => Sys2Proof.Machine.execUnrec8xy8 x y s
  | .unrec8xy9 x y => Sys2Proof.Machine.execUnrec8xy9 x y s
  | .unrec8xyA x y => Sys2Proof.Machine.execUnrec8xyA x y s
  | .unrec8xyB x y => Sys2Proof.Machine.execUnrec8xyB x y s
  | .unrec8xyC x y => Sys2Proof.Machine.execUnrec8xyC x y s
  | .unrec8xyD x y => Sys2Proof.Machine.execUnrec8xyD x y s
  | .unrec8xyF x y => Sys2Proof.Machine.execUnrec8xyF x y s
  | .unrec9xyn x y n => Sys2Proof.Machine.execUnrec9xyn x y n s
  | .unrecExkk x kk => Sys2Proof.Machine.execUnrecExkk x kk s
  | .unrecFxkk x kk => Sys2Proof.Machine.execUnrecFxkk x kk s

end Sys2Proof.Machine
end

