-- ==== Sys2Proof/Machine/Step.lean ====
section
/-! DEFINITION. One step() of the engine (spec/40_engine_cycle.md R121): the halted and waiting checks, then
fetch, decode, execute. -/

namespace Sys2Proof.Machine

/-- step() (40_engine_cycle.md R121), in the order of checks of 60_exceptions.md R247. Its answer to the
caller is `State.stepResult` of the state it leaves. -/
def step (s : State) : Host.Outcome State Fault Refusal :=
  match s.halt with
  | some _ => haltedStep s
  | none =>
    match s.wait with
    | some x => keyWaitResume x s
    | none =>
      match s.fetch with
      | none => fetchFault s
      | some w => exec (decodeWord w) s

/-- The state with the table's word where step fetches its next instruction, so that the very next step
runs it (log 28). -/
def State.withFetchWord (s : State) (nbits w : Nat) : State := s.placeFetch (tableWord nbits w)

end Sys2Proof.Machine
end

