-- ==== Sys2Proof/Machine/HostInterface.lean ====
section
/-! DEFINITION. The transaction-level interface of the CORE (spec/60_exceptions.md R250-R257): the host's
operations, and any interleaving of them with steps (R253). -/

namespace Sys2Proof.Machine

/-- One timer's countdown, held at zero (60_exceptions.md R250). -/
def countdown (t : Byte) : Byte := if t.toNat > 0 then t - 1#8 else t

/-- tick() (60_exceptions.md R250). -/
def State.tick (s : State) : State := { s with dt := countdown s.dt, st := countdown s.st }

/-- refreshKeys(k): all 16 entries at once (60_exceptions.md R254). -/
def State.refreshKeys (s : State) (k : Vector Bool 16) : State := { s with keys := k }

/-- What load answers (60_exceptions.md R256): Ok, or a fault of the taxonomy with its code (R240). -/
inductive LoadResult where
  | ok
  | rejected (kind : FaultKind) (code : Byte)
  deriving DecidableEq, Repr

/-- LoaderOversize as the host receives it: kind and code (60_exceptions.md R240). -/
def loaderOversize : LoadResult := .rejected .loaderOversize FaultKind.loaderOversize.code

/-- load(bytes) (60_exceptions.md R256): reject more than 3584 bytes with no change, else write them from
0x200 on and touch nothing else. -/
def State.load (s : State) (bytes : List Byte) : LoadResult × State :=
  if bytes.length > Config.maxProgram then (loaderOversize, s)
  else (.ok, s.writeMem (s.mem.writeBlock Config.programBase bytes))

/-- readFramebuffer() (60_exceptions.md R255). -/
def State.readFramebuffer (s : State) : Bitplane := s.fb

/-- readSoundTimer() (60_exceptions.md R253, R257). -/
def State.readSoundTimer (s : State) : Byte := s.st

/-- "sound on" means ST is not 0 (60_exceptions.md R257). -/
def State.soundOn (s : State) : Bool := s.st != 0#8

/-- readFault() (60_exceptions.md R253). -/
def State.readFault (s : State) : Option FaultRecord := s.halt

/-- reset() (70_reset_and_hazards.md R280): the machine's glyph ROM is loaded once and never changes, so
the state is that of R38 with the table this machine has. The count of draws goes on, so that a draw after
a reset is a new free value (log 4). -/
def State.hostReset (s : State) : State := { State.resetWith s.mem.glyph with draws := s.draws }

/-- The host's operations (60_exceptions.md R253). -/
inductive HostOp where
  | tick
  | refreshKeys (k : Vector Bool 16)
  | load (bytes : List Byte)
  | readFramebuffer
  | readSoundTimer
  | readFault
  | reset
  deriving DecidableEq, Repr

/-- What an operation returns to the host (60_exceptions.md R253). -/
inductive HostReply where
  | done
  | loaded (r : LoadResult)
  | framebuffer (fb : Bitplane)
  | soundTimer (st : Byte)
  | fault (r : Option FaultRecord)
  deriving DecidableEq, Repr

/-- One host operation, defined in every state, halted and waiting included (60_exceptions.md R253, D28). -/
def HostOp.apply (op : HostOp) (s : State) : HostReply × State :=
  match op with
  | .tick => (.done, s.tick)
  | .refreshKeys k => (.done, s.refreshKeys k)
  | .load bytes => let (r, t) := s.load bytes; (.loaded r, t)
  | .readFramebuffer => (.framebuffer s.readFramebuffer, s)
  | .readSoundTimer => (.soundTimer s.readSoundTimer, s)
  | .readFault => (.fault s.readFault, s)
  | .reset => (.done, s.hostReset)

/-- What can happen next: an engine step or a host operation (60_exceptions.md R252). -/
inductive Event where
  | step
  | host (op : HostOp)
  deriving DecidableEq, Repr

/-- The state after an event. A step always has a next state (Fault has no constructor and no arm of exec
refuses), so the other outcomes do not occur. -/
def Event.apply (e : Event) (s : State) : State :=
  match e with
  | .step =>
    match Sys2Proof.Machine.step s with
    | .next t => t
    | .fault _ => s
    | .refused _ => s
  | .host op => (op.apply s).2

/-- Any interleaving of steps and host operations, host operations only between steps (60_exceptions.md
R253; 20_memory.md R70). -/
def runEvents (s : State) : List Event → State
  | [] => s
  | e :: es => runEvents (e.apply s) es

end Sys2Proof.Machine
end

