-- ==== Sys2Proof/Safety.lean ====
section
/-! DEFINITION. What counts as a safe run, and the invariant of the CORE, in the terms the statements use. -/

namespace Sys2Proof.Machine

/-- A safe state: no fault has stopped execution (spec/10_state.md R37). -/
abbrev State.running (s : State) : Prop := s.halt = none

/-- A safe run: no fault after any event of it. -/
def safeRun (s : State) (es : List Event) : Prop :=
  ∀ done, done <+: es → (runEvents s done).running

/-- A fault record that agrees with the table of spec/60_exceptions.md R240: its code is its kind's, and
opcode and addr are present exactly where the table has them. -/
def FaultRecord.ofTable (r : FaultRecord) : Prop :=
  r.code = r.kind.code ∧
    match r.kind with
    | .address .fetch => r.opcode = none ∧ r.addr = some r.pc.toNat ∧ Config.maxFetch < r.pc.toNat
    | .address .dataRead => r.opcode.isSome ∧ ∃ a, r.addr = some a ∧ Config.maxAddr < a
    | .address .dataWrite => r.opcode.isSome ∧ ∃ a, r.addr = some a ∧ Config.maxAddr < a
    | .stack _ => r.opcode.isSome ∧ r.addr = none
    | .loaderOversize => False

/-- The invariant of the CORE: memory in canonical form; PC at most 0x10FE (10_state.md R26); every stack
slot an address a CALL was fetched at (R29; 40_engine_cycle.md R122); a key wait holds PC at a fetchable
address (R36); a fault record follows the table (60_exceptions.md R240). -/
structure State.Inv (s : State) : Prop where
  mem_wf : s.mem.wf
  pc_le : s.pc.toNat ≤ 0x10FE
  stack_le : ∀ k : Fin 16, s.stack[k].toNat ≤ Config.maxFetch
  wait_pc : s.wait.isSome → s.pc.toNat ≤ Config.maxFetch
  halt_table : ∀ r, s.halt = some r → r.ofTable

end Sys2Proof.Machine
end

