-- ==== Sys2Proof/Certificates/Slice0/Obligations.lean ====
section
/-! DEFINITION. The statements for the provers, and the words they are written in: what an instruction may
change (a frame), which pixels a sprite covers, which registers an instruction writes.

Where a docstring says "the spec's own decision D<n>" the clause rests on spec/92_eei_decisions.md, not on a
sentence of the spec's source; the log entry is named beside it. -/

open Sys2Proof Sys2Proof.Machine

namespace Sys2Proof.Claims

/-! ## Frames -/

/-- A part of the state: a V register, a stack slot, a memory byte, or a named component. -/
inductive Part where
  | reg (r : RegIdx)
  | i
  | pc
  | sp
  | slot (k : Fin 16)
  | dt
  | st
  | keys
  | fb
  | byte (a : Nat)
  | wait
  | halt
  | draws
  deriving DecidableEq, Repr

/-- From s to t nothing changes but the listed parts. -/
def OnlyChanges (may : List Part) (s t : State) : Prop :=
  (∀ r : RegIdx, Part.reg r ∉ may → t.readV r = s.readV r) ∧
  (Part.i ∉ may → t.i = s.i) ∧
  (Part.pc ∉ may → t.pc = s.pc) ∧
  (Part.sp ∉ may → t.sp = s.sp) ∧
  (∀ k : Fin 16, Part.slot k ∉ may → t.stack[k] = s.stack[k]) ∧
  (Part.dt ∉ may → t.dt = s.dt) ∧
  (Part.st ∉ may → t.st = s.st) ∧
  (Part.keys ∉ may → t.keys = s.keys) ∧
  (Part.fb ∉ may → t.fb = s.fb) ∧
  (∀ a : Nat, Part.byte a ∉ may → t.mem.read a = s.mem.read a) ∧
  (Part.wait ∉ may → t.wait = s.wait) ∧
  (Part.halt ∉ may → t.halt = s.halt) ∧
  (Part.draws ∉ may → t.draws = s.draws)

/-- The bytes of an I-relative access to `count` bytes: the addresses the meanings use (`State.indexAddr`). -/
def indexBytes (s : State) (count : Nat) : List Part :=
  (List.range count).map fun k => Part.byte (s.indexAddr k)

/-! ## Sprites (spec/41_display.md R141) -/

/-- Every sprite byte of a DRW is in memory; a draw of no row reads none. -/
def SpriteInRange (s : State) (n : Nibble) : Prop := n = 0#4 ∨ s.i.toNat + n.toNat - 1 ≤ 0xFFF

/-- The sprite has a 1 at pixel (px, py): bit 7-j of row i, wrapped per coordinate. -/
def SpriteCovers (s : State) (x y : RegIdx) (n : Nibble) (px py : Nat) : Prop :=
  ∃ i < n.toNat, ∃ j < 8,
    px = ((s.readV x).toNat + j) % 64 ∧ py = ((s.readV y).toNat + i) % 32 ∧
      (s.mem.read (s.i.toNat + i)).getLsbD (7 - j) = true

/-! ## Which instruction writes what -/

/-- The V registers an instruction writes (the table of spec/10_state.md R23). -/
def writesV : Instr → List RegIdx
  | .ldImm x _ | .addImm x _ | .ldReg x _ | .orReg x _ | .andReg x _ | .xorReg x _ => [x]
  | .addReg x _ | .sub x _ | .shr x _ | .subn x _ | .shl x _ => [x, 0xF#4]
  | .rnd x _ | .ldVxDt x | .ldVxK x => [x]
  | .drw _ _ _ => [0xF#4]
  | .ldVxMem x => (List.range (x.toNat + 1)).map (BitVec.ofNat 4)
  | .cls | .ret | .jp _ | .call _ | .seImm _ _ | .sneImm _ _ | .seReg _ _ | .sneReg _ _ | .ldI _
  | .jpV0 _ | .skp _ | .sknp _ | .ldDtVx _ | .ldStVx _ | .addIVx _ | .ldFVx _ | .ldBVx _ | .ldMemVx _
  | .unrec0nnn _ | .unrec5xyn _ _ _ | .unrec8xy8 _ _ | .unrec8xy9 _ _ | .unrec8xyA _ _ | .unrec8xyB _ _
  | .unrec8xyC _ _ | .unrec8xyD _ _ | .unrec8xyF _ _ | .unrec9xyn _ _ _ | .unrecExkk _ _
  | .unrecFxkk _ _ => []

/-- The six instructions that write VF as a flag (spec/10_state.md R35). -/
def IsFlagWriter (i : Instr) : Prop :=
  (∃ x y, i = .addReg x y ∨ i = .sub x y ∨ i = .shr x y ∨ i = .subn x y ∨ i = .shl x y) ∨
    ∃ x y n, i = .drw x y n

/-- The three instructions that read the input latch (spec/10_state.md R32). -/
def ReadsKeys (i : Instr) : Prop := ∃ x, i = .skp x ∨ i = .sknp x ∨ i = .ldVxK x

/-! ## Balanced code (spec/42_control_flow.md R159) -/

/-- Code run from s to t by executing the listed instructions in turn, with no fault, SP never below
`base`: its CALLs and RETs never return past the frame it started in. -/
def RunsAbove (base : Nat) : List Instr → State → State → Prop
  | [], s, t => t = s
  | i :: rest, s, t =>
    ∃ u, exec i s = .next u ∧ u.halt = none ∧ base ≤ u.sp.val ∧ RunsAbove base rest u t

end Sys2Proof.Claims

open Sys2Proof.Claims

/-! ## Encoding -/

/-- Decoding the word of any well-formed instruction gives it back, at every operand value
(30_encoding.md R91-R95). -/
def Obligations.DecodeEncodeRoundTrip : Prop :=
  ∀ i : Instr, i.wellFormed = true → decodeWord (encode i) = i

/-- Every one of the 65536 words is the encoding of the instruction it decodes to, which is well-formed:
decoding drops no bit, and a fault record's opcode, `encode` of the instruction, is the fetched word. -/
def Obligations.EncodeDecodeRoundTrip : Prop :=
  ∀ w : Word, encode (decodeWord w) = w ∧ (decodeWord w).wellFormed = true

/-- The opcode table decides the decoding: a word matches its instruction's row; a word that matches an
instruction's row decodes to that row; an unrecognized word matches no instruction's row. -/
def Obligations.DecodeFollowsOpcodeTable : Prop :=
  ∀ w : Word,
    w &&& (tableRow (decodeWord w)).1 = (tableRow (decodeWord w)).2 ∧
    ∀ i : Instr, i.isUnrecognized = false → w &&& (tableRow i).1 = (tableRow i).2 →
      tableRow (decodeWord w) = tableRow i ∧ (decodeWord w).isUnrecognized = false

/-- A few words written out from the encodings of 30_encoding.md R98 decode to their instructions; that
0x00E1 is unrecognized is the spec's own decision D7, log 9. -/
def Obligations.WrittenOutWordsDecode : Prop :=
  decodeWord 0x00E0#16 = .cls ∧ decodeWord 0x2300#16 = .call 0x300#12 ∧
  decodeWord 0x3342#16 = .seImm 3#4 0x42#8 ∧ decodeWord 0x8126#16 = .shr 1#4 2#4 ∧
  decodeWord 0xD12F#16 = .drw 1#4 2#4 15#4 ∧ decodeWord 0xE19E#16 = .skp 1#4 ∧
  decodeWord 0xF355#16 = .ldMemVx 3#4 ∧ decodeWord 0x00E1#16 = .unrec0nnn 0x0E1#12

/-- The complete set of unrecognized words (30_encoding.md R96; the spec's own decision D7, log 9). -/
def Obligations.UnrecognizedSetIsExact : Prop :=
  ∀ w : Word, (decodeWord w).isUnrecognized = true ↔
    (w.toNat < 0x1000 ∧ w.toNat ≠ 0x00E0 ∧ w.toNat ≠ 0x00EE) ∨
    (w.toNat / 0x1000 = 5 ∧ w.toNat % 16 ≠ 0) ∨
    (w.toNat / 0x1000 = 8 ∧ w.toNat % 16 ∈ [0x8, 0x9, 0xA, 0xB, 0xC, 0xD, 0xF]) ∨
    (w.toNat / 0x1000 = 9 ∧ w.toNat % 16 ≠ 0) ∨
    (w.toNat / 0x1000 = 0xE ∧ w.toNat % 256 ∉ [0x9E, 0xA1]) ∨
    (w.toNat / 0x1000 = 0xF ∧ w.toNat % 256 ∉ [0x07, 0x0A, 0x15, 0x18, 0x1E, 0x29, 0x33, 0x55, 0x65])

/-! ## The step -/

/-- When neither a fault nor a key wait is outstanding and PC is fetchable, a step is exec of the
instruction the two bytes at PC decode to (40_engine_cycle.md R121, R122). Nothing is added around exec. -/
def Obligations.StepRunsDecodedInstruction : Prop :=
  ∀ (s : State) (i : Instr), s.halt = none → s.wait = none → s.pc.toNat ≤ 4094 →
    decodeBytes [s.mem.read s.pc.toNat, s.mem.read (s.pc.toNat + 1)] = .ok (i, []) →
    step s = exec i s

/-- The fetched word is Mem[PC] * 256 + Mem[PC+1], PC odd or even (20_memory.md R65, R66; odd is
the spec's own decision D16, log 18). -/
def Obligations.FetchIsBigEndian : Prop :=
  ∀ s : State, s.pc.toNat ≤ 4094 →
    ∃ w, s.fetch = some w ∧
      w.toNat = (s.mem.read s.pc.toNat).toNat * 256 + (s.mem.read (s.pc.toNat + 1)).toNat

/-- A fetch due at PC > 4094 faults: the record has no opcode and addr PC, nothing else changes
(40_engine_cycle.md R122; code, sticky record and no opcode are the spec's own decisions D13, D14, D27:
logs 14, 15, 16). -/
def Obligations.FetchBeyondMemoryFaults : Prop :=
  ∀ s : State, s.halt = none → s.wait = none → 4094 < s.pc.toNat →
    ∃ t, step s = .next t ∧
      t.halt = some { kind := .address .fetch, code := 0x01#8, pc := s.pc, opcode := none,
                      addr := some s.pc.toNat } ∧
      OnlyChanges [.halt] s t ∧ t.stepResult = .faulted
        { kind := .address .fetch, code := 0x01#8, pc := s.pc, opcode := none, addr := some s.pc.toNat }

/-- A halted step changes nothing and reports the same record, and only reset clears the record: no step
and no other host operation does (40_engine_cycle.md R127, R128; 60_exceptions.md R246; the spec's own
decision D13, log 14). -/
def Obligations.HaltedStepChangesNothing : Prop :=
  ∀ (s : State) (r : FaultRecord), s.halt = some r →
    step s = .next s ∧ s.stepResult = .faulted r ∧
    (∀ e : Event, e ≠ .host .reset → (e.apply s).halt = some r) ∧
    ((Event.host .reset).apply s).halt = none

/-- A waiting step with no key set changes nothing and reports WaitingForInput; with a key set it completes
the suspended Fx0A with the highest one, without fetching (40_engine_cycle.md R121;
45_random_input_timers.md R224; the spec's own decision D10, log 12). -/
def Obligations.WaitingStepResumesKeyWait : Prop :=
  ∀ (s : State) (x : RegIdx), s.halt = none → s.wait = some x →
    ((∀ k : Fin 16, s.keys[k] = false) → step s = .next s ∧ s.stepResult = .waitingForInput) ∧
    (∀ k : Fin 16, s.keys[k] = true → (∀ j : Fin 16, k < j → s.keys[j] = false) →
      ∃ t, step s = .next t ∧ t.readV x = BitVec.ofNat 8 k.val ∧ t.wait = none ∧ t.pc = s.pc + 2#16 ∧
        OnlyChanges [.reg x, .wait, .pc] s t ∧ t.stepResult = .executed)

/-- Every step of every state has a next state: no instruction is refused and none stops the model
(40_engine_cycle.md R120; faults are next states, log 26). -/
def Obligations.EveryStepHasANextState : Prop := ∀ s : State, ∃ t, step s = .next t

/-- A step that reports WaitingForInput changed nothing except Wait (40_engine_cycle.md R120). -/
def Obligations.WaitingResultChangesOnlyWait : Prop :=
  ∀ s t : State, step s = .next t → t.stepResult = .waitingForInput → OnlyChanges [.wait] s t

/-- Every fault is precise and its record follows the table: a step that faults changes Halt alone, the
record's pc is PC, its code, opcode and addr are those of 60_exceptions.md R240, its opcode the fetched word,
a data fault's addr max(I, 0x1000), and its code the number of its kind (40_engine_cycle.md R125; addr,
precision, the numbers of the codes and a fetch fault's record are the spec's own decisions D12, D13, D14,
D27: logs 13, 14, 15, 16). -/
def Obligations.FaultsArePreciseAndRecorded : Prop :=
  ∀ (s t : State) (r : FaultRecord), s.halt = none → step s = .next t → t.halt = some r →
    r.ofTable ∧ r.pc = s.pc ∧ r.opcode = s.fetch ∧ OnlyChanges [.halt] s t ∧
    (r.kind = .address .dataRead ∨ r.kind = .address .dataWrite → r.addr = some (max s.i.toNat 0x1000)) ∧
    (r.kind = .address .fetch → r.code = 0x01#8) ∧
    (r.kind = .address .dataRead → r.code = 0x02#8) ∧
    (r.kind = .address .dataWrite → r.code = 0x03#8) ∧
    (r.kind = .stack .overflow → r.code = 0x11#8) ∧
    (r.kind = .stack .underflow → r.code = 0x12#8)

/-! ## Display -/

/-- CLS, the word 0x00E0 alone (41_display.md R140; "alone" is the spec's own decision D7, log 9). -/
def Obligations.ClsClearsTheFramebuffer : Prop :=
  (∀ w : Word, decodeWord w = .cls ↔ w = 0x00E0#16) ∧
  ∀ s : State, ∃ t, exec .cls s = .next t ∧ (∀ p < 2048, t.pixel p = false) ∧ t.pc = s.pc + 2#16 ∧
    OnlyChanges [.fb, .pc] s t

/-- DRW with its sprite in memory: each pixel is flipped exactly where the sprite has a 1, VF is 1 exactly
when some covered pixel was 1, n = 0 included (41_display.md R141; coordinates sampled first, VF last, bit 7
leftmost, n = 0: the spec's own decisions D6, D8, D19: logs 8, 10, 21). -/
def Obligations.DrwXorsTheSprite : Prop :=
  ∀ (x y : RegIdx) (n : Nibble) (s : State), SpriteInRange s n →
    ∃ t, exec (.drw x y n) s = .next t ∧
      (∀ px < 64, ∀ py < 32,
        (t.pixel (py * 64 + px) = true ↔
          ¬ (s.pixel (py * 64 + px) = true ↔ SpriteCovers s x y n px py))) ∧
      (t.readV 0xF#4 = 1#8 ∨ t.readV 0xF#4 = 0#8) ∧
      (t.readV 0xF#4 = 1#8 ↔
        ∃ px < 64, ∃ py < 32, s.pixel (py * 64 + px) = true ∧ SpriteCovers s x y n px py) ∧
      t.pc = s.pc + 2#16 ∧ OnlyChanges [.fb, .reg 0xF#4, .pc] s t

/-- Drawing the same sprite twice at the same position restores the framebuffer, and the second draw sets
VF to 1 exactly when the first draw set some pixel (the source property quoted in 41_display.md R141; the
"iff the sprite has a 1 bit" of that rule's derived law holds only where no covered pixel was set before,
log 29). The position is the same when the coordinate registers still hold their values (they do unless x or
y is 0xF). -/
def Obligations.DrwTwiceRestoresTheFramebuffer : Prop :=
  ∀ (x y : RegIdx) (n : Nibble) (s : State), SpriteInRange s n →
    ∃ t, exec (.drw x y n) s = .next t ∧
      (t.readV x = s.readV x → t.readV y = s.readV y →
        ∃ u, exec (.drw x y n) t = .next u ∧ u.fb = s.fb ∧
          (u.readV 0xF#4 = 1#8 ↔ ∃ p < 2048, s.pixel p = false ∧ t.pixel p = true))

/-! ## Control flow -/

/-- JP nnn, encoded 1nnn (42_control_flow.md R152). -/
def Obligations.JpSetsPC : Prop :=
  ∀ (nnn : Addr12) (s : State), decodeWord (0x1#4 ++ nnn) = .jp nnn ∧ ∃ t, exec (.jp nnn) s = .next t ∧ t.pc.toNat = nnn.toNat ∧
    OnlyChanges [.pc] s t

/-- CALL nnn, encoded 2nnn, pushes its own address; with SP = 16 it raises the overflow fault and changes
nothing but Halt (42_control_flow.md R153; 60_exceptions.md R243). That a fault changes nothing but Halt is
the spec's own decision D13 (log 14), that the stack is no part of memory D23 (log 25); that the record's
opcode is the encoding of the CALL is deduced (log 1). -/
def Obligations.CallPushesOrOverflows : Prop :=
  ∀ (nnn : Addr12) (s : State),
    decodeWord (0x2#4 ++ nnn) = .call nnn ∧
    (∀ k : Fin 16, k.val = s.sp.val →
      ∃ t, exec (.call nnn) s = .next t ∧ t.stack[k] = s.pc ∧ t.sp.val = s.sp.val + 1 ∧
        t.pc.toNat = nnn.toNat ∧ OnlyChanges [.slot k, .sp, .pc] s t) ∧
    (s.sp.val = 16 →
      ∃ t r, exec (.call nnn) s = .next t ∧ t.halt = some r ∧ r.kind = .stack .overflow ∧ r.pc = s.pc ∧
        r.opcode = some (encode (.call nnn)) ∧ OnlyChanges [.halt] s t)

/-- RET, the word 0x00EE alone, returns to the popped address plus 2, the slot keeping its value; with SP = 0
it raises the underflow fault and changes nothing but Halt (42_control_flow.md R151; 60_exceptions.md R243).
"Alone" is the spec's own decision D7 (log 9), the kept slot and the stack's place D23 (log 25), that a fault
changes nothing but Halt D13 (log 14); that the record's opcode is the encoding of RET is deduced (log 1). -/
def Obligations.RetPopsOrUnderflows : Prop :=
  (∀ w : Word, decodeWord w = .ret ↔ w = 0x00EE#16) ∧
  ∀ s : State,
    (∀ k : Fin 16, k.val + 1 = s.sp.val →
      ∃ t, exec .ret s = .next t ∧ t.sp.val = k.val ∧ t.pc = s.stack[k] + 2#16 ∧
        OnlyChanges [.sp, .pc] s t) ∧
    (s.sp.val = 0 →
      ∃ t r, exec .ret s = .next t ∧ t.halt = some r ∧ r.kind = .stack .underflow ∧ r.pc = s.pc ∧
        r.opcode = some (encode .ret) ∧ OnlyChanges [.halt] s t)

/-- SE Vx, kk and SNE Vx, kk, encoded 3xkk and 4xkk (42_control_flow.md R154, R155). -/
def Obligations.ImmediateSkips : Prop :=
  ∀ (x : RegIdx) (kk : Byte) (s : State),
    decodeWord (0x3#4 ++ x ++ kk) = .seImm x kk ∧ decodeWord (0x4#4 ++ x ++ kk) = .sneImm x kk ∧
    (∃ t, exec (.seImm x kk) s = .next t ∧
      t.pc = (if s.readV x = kk then s.pc + 4#16 else s.pc + 2#16) ∧ OnlyChanges [.pc] s t) ∧
    (∃ t, exec (.sneImm x kk) s = .next t ∧
      t.pc = (if s.readV x ≠ kk then s.pc + 4#16 else s.pc + 2#16) ∧ OnlyChanges [.pc] s t)

/-- SE Vx, Vy and SNE Vx, Vy, encoded 5xy0 and 9xy0; any other low nibble is unrecognized
(42_control_flow.md R156, R157; that the low nibble must be 0 is the spec's own decision D7, log 9). -/
def Obligations.RegisterSkips : Prop :=
  ∀ (x y : RegIdx) (s : State),
    decodeWord (0x5#4 ++ x ++ y ++ 0x0#4) = .seReg x y ∧
    decodeWord (0x9#4 ++ x ++ y ++ 0x0#4) = .sneReg x y ∧
    (∀ n : Nibble, n ≠ 0#4 → decodeWord (0x5#4 ++ x ++ y ++ n) = .unrec5xyn x y n ∧
      decodeWord (0x9#4 ++ x ++ y ++ n) = .unrec9xyn x y n) ∧
    (∃ t, exec (.seReg x y) s = .next t ∧
      t.pc = (if s.readV x = s.readV y then s.pc + 4#16 else s.pc + 2#16) ∧ OnlyChanges [.pc] s t) ∧
    (∃ t, exec (.sneReg x y) s = .next t ∧
      t.pc = (if s.readV x ≠ s.readV y then s.pc + 4#16 else s.pc + 2#16) ∧ OnlyChanges [.pc] s t)

/-- JP V0, nnn: the sum is not reduced, whatever it is (42_control_flow.md R158; that it does not wrap is
the spec's own decision D15, log 17). -/
def Obligations.JpV0AddsWithoutWrapping : Prop :=
  ∀ (nnn : Addr12) (s : State), ∃ t, exec (.jpV0 nnn) s = .next t ∧
    t.pc.toNat = nnn.toNat + (s.readV 0#4).toNat ∧ OnlyChanges [.pc] s t

/-- From any state with SP < 16, CALL at P, then code whose CALLs and RETs are balanced and which does not
fault, then RET, leaves PC = P + 2 and SP as before the CALL (42_control_flow.md R159, derived there). -/
def Obligations.CallReturnLaw : Prop :=
  ∀ (nnn : Addr12) (s t u : State) (code : List Instr), s.sp.val < 16 →
    exec (.call nnn) s = .next t → RunsAbove t.sp.val code t u → u.sp = t.sp →
    ∃ v, exec .ret u = .next v ∧ v.pc = s.pc + 2#16 ∧ v.sp = s.sp

/-! ## ALU -/

/-- LD Vx, kk; ADD Vx, kk with no flag; LD Vx, Vy; encoded 6xkk, 7xkk, 8xy0 (43_alu.md R172, R173, R174). -/
def Obligations.LoadsAndAddImmediate : Prop :=
  ∀ (x y : RegIdx) (kk : Byte) (s : State),
    decodeWord (0x6#4 ++ x ++ kk) = .ldImm x kk ∧ decodeWord (0x7#4 ++ x ++ kk) = .addImm x kk ∧
    decodeWord (0x8#4 ++ x ++ y ++ 0x0#4) = .ldReg x y ∧
    (∃ t, exec (.ldImm x kk) s = .next t ∧ t.readV x = kk ∧ t.pc = s.pc + 2#16 ∧
      OnlyChanges [.reg x, .pc] s t) ∧
    (∃ t, exec (.addImm x kk) s = .next t ∧
      (t.readV x).toNat = ((s.readV x).toNat + kk.toNat) % 256 ∧ t.pc = s.pc + 2#16 ∧
      OnlyChanges [.reg x, .pc] s t) ∧
    (∃ t, exec (.ldReg x y) s = .next t ∧ t.readV x = s.readV y ∧ t.pc = s.pc + 2#16 ∧
      OnlyChanges [.reg x, .pc] s t)

/-- OR, AND, XOR bit by bit; VF unchanged unless it is the destination (43_alu.md R175, R176, R177; that VF
is unchanged is the spec's own decision D26, log 23). -/
def Obligations.BitwiseOperations : Prop :=
  ∀ (x y : RegIdx) (s : State),
    (∃ t, exec (.orReg x y) s = .next t ∧
      (∀ k < 8, (t.readV x).getLsbD k = ((s.readV x).getLsbD k || (s.readV y).getLsbD k)) ∧
      t.pc = s.pc + 2#16 ∧ OnlyChanges [.reg x, .pc] s t) ∧
    (∃ t, exec (.andReg x y) s = .next t ∧
      (∀ k < 8, (t.readV x).getLsbD k = ((s.readV x).getLsbD k && (s.readV y).getLsbD k)) ∧
      t.pc = s.pc + 2#16 ∧ OnlyChanges [.reg x, .pc] s t) ∧
    (∃ t, exec (.xorReg x y) s = .next t ∧
      (∀ k < 8, (t.readV x).getLsbD k = ((s.readV x).getLsbD k ^^ (s.readV y).getLsbD k)) ∧
      t.pc = s.pc + 2#16 ∧ OnlyChanges [.reg x, .pc] s t)

/-- ADD Vx, Vy: the sum mod 256 in Vx (x other than 0xF), then VF = 1 exactly when the sum exceeds 255,
which is VF's final value for x = 0xF too (43_alu.md R178; flag last is the spec's own decision D6, log 8). -/
def Obligations.AddWithCarryOut : Prop :=
  ∀ (x y : RegIdx) (s : State), ∃ t, exec (.addReg x y) s = .next t ∧
    (x ≠ 0xF#4 → (t.readV x).toNat = ((s.readV x).toNat + (s.readV y).toNat) % 256) ∧
    t.readV 0xF#4 = (if (s.readV x).toNat + (s.readV y).toNat > 255 then 1#8 else 0#8) ∧
    t.pc = s.pc + 2#16 ∧ OnlyChanges [.reg x, .reg 0xF#4, .pc] s t

/-- SUB Vx, Vy and SUBN Vx, Vy: a - b and b - a mod 256 (x other than 0xF), then VF = 1 exactly when the
first is greater, strictly; flag last (43_alu.md R179, R181; flag last is the spec's own decision D6, log 8). -/
def Obligations.SubtractionsWithStrictFlag : Prop :=
  ∀ (x y : RegIdx) (s : State),
    (∃ t, exec (.sub x y) s = .next t ∧
      (x ≠ 0xF#4 → (t.readV x).toNat = ((s.readV x).toNat + 256 - (s.readV y).toNat) % 256) ∧
      t.readV 0xF#4 = (if (s.readV x).toNat > (s.readV y).toNat then 1#8 else 0#8) ∧
      t.pc = s.pc + 2#16 ∧ OnlyChanges [.reg x, .reg 0xF#4, .pc] s t) ∧
    (∃ t, exec (.subn x y) s = .next t ∧
      (x ≠ 0xF#4 → (t.readV x).toNat = ((s.readV y).toNat + 256 - (s.readV x).toNat) % 256) ∧
      t.readV 0xF#4 = (if (s.readV y).toNat > (s.readV x).toNat then 1#8 else 0#8) ∧
      t.pc = s.pc + 2#16 ∧ OnlyChanges [.reg x, .reg 0xF#4, .pc] s t)

/-- SHR and SHL shift Vx in place by one, y ignored; VF is the bit shifted out, captured before the shift;
flag last (43_alu.md R180, R182; D6, log 8). -/
def Obligations.ShiftsByOne : Prop :=
  ∀ (x y : RegIdx) (s : State),
    (∃ t, exec (.shr x y) s = .next t ∧
      (x ≠ 0xF#4 → (t.readV x).toNat = (s.readV x).toNat / 2) ∧
      (t.readV 0xF#4).toNat = (s.readV x).toNat % 2 ∧
      t.pc = s.pc + 2#16 ∧ OnlyChanges [.reg x, .reg 0xF#4, .pc] s t) ∧
    (∃ t, exec (.shl x y) s = .next t ∧
      (x ≠ 0xF#4 → (t.readV x).toNat = (s.readV x).toNat * 2 % 256) ∧
      (t.readV 0xF#4).toNat = (s.readV x).toNat / 128 ∧
      t.pc = s.pc + 2#16 ∧ OnlyChanges [.reg x, .reg 0xF#4, .pc] s t)

/-- VF is written as a flag by exactly six instructions, with the meanings of the table; 7xkk, 8xy1-8xy3 and
Fx1E, like every instruction that does not have VF as its destination, leave it (10_state.md R35; flag last is
the spec's own decision D6, log 8, and that 8xy1-8xy3 leave VF its own decision D26, log 23). The DRW clause is
about sprites in memory; a DRW out of range faults (IndexAccessOutsideMemoryFaults). -/
def Obligations.FlagWritersAndMeanings : Prop :=
  (∀ (x y : RegIdx) (s : State),
    (∃ t, exec (.addReg x y) s = .next t ∧
      t.readV 0xF#4 = if (s.readV x).toNat + (s.readV y).toNat > 255 then 1#8 else 0#8) ∧
    (∃ t, exec (.sub x y) s = .next t ∧
      t.readV 0xF#4 = if (s.readV x).toNat > (s.readV y).toNat then 1#8 else 0#8) ∧
    (∃ t, exec (.shr x y) s = .next t ∧
      t.readV 0xF#4 = if (s.readV x).getLsbD 0 then 1#8 else 0#8) ∧
    (∃ t, exec (.subn x y) s = .next t ∧
      t.readV 0xF#4 = if (s.readV y).toNat > (s.readV x).toNat then 1#8 else 0#8) ∧
    (∃ t, exec (.shl x y) s = .next t ∧
      t.readV 0xF#4 = if (s.readV x).getLsbD 7 then 1#8 else 0#8)) ∧
  (∀ (x y : RegIdx) (n : Nibble) (s : State), SpriteInRange s n →
    ∃ t, exec (.drw x y n) s = .next t ∧ (t.readV 0xF#4 = 1#8 ∨ t.readV 0xF#4 = 0#8) ∧
      (t.readV 0xF#4 = 1#8 ↔ ∃ p < 2048, s.pixel p = true ∧ t.pixel p = false)) ∧
  (∀ (i : Instr) (s t : State), ¬ IsFlagWriter i → 0xF#4 ∉ writesV i → exec i s = .next t →
    t.readV 0xF#4 = s.readV 0xF#4)

/-! ## Index register and memory -/

/-- LD I, nnn and LD F, Vx, the glyph of the low nibble; encoded Annn, Fx29 (44_index_memory.md R201, R203). -/
def Obligations.LdIAndLdFSetIndex : Prop :=
  ∀ (nnn : Addr12) (x : RegIdx) (s : State),
    decodeWord (0xA#4 ++ nnn) = .ldI nnn ∧ decodeWord (0xF#4 ++ x ++ 0x29#8) = .ldFVx x ∧
    (∃ t, exec (.ldI nnn) s = .next t ∧ t.i.toNat = nnn.toNat ∧
      t.pc = s.pc + 2#16 ∧ OnlyChanges [.i, .pc] s t) ∧
    (∃ t, exec (.ldFVx x) s = .next t ∧ t.i.toNat = (s.readV x).toNat % 16 * 5 ∧
      t.pc = s.pc + 2#16 ∧ OnlyChanges [.i, .pc] s t)

/-- ADD I, Vx: mod 65536, no flag (44_index_memory.md R202; the wrap is the spec's own decision D17, log 19). -/
def Obligations.AddIWrapsAtSixteenBits : Prop :=
  ∀ (x : RegIdx) (s : State), ∃ t, exec (.addIVx x) s = .next t ∧
    t.i.toNat = (s.i.toNat + (s.readV x).toNat) % 65536 ∧ t.pc = s.pc + 2#16 ∧ OnlyChanges [.i, .pc] s t

/-- LD B, Vx in range: hundreds, tens and ones at I, I+1, I+2, a byte aimed at the glyph ROM discarded; I
unchanged (44_index_memory.md R204; discarding, storing into the reserved region 0x050-0x1FF as into any RAM,
and the check before any effect are the spec's own decisions D4, D5, D12: logs 6, 7, 13). -/
def Obligations.LdBStoresDecimalDigits : Prop :=
  ∀ (x : RegIdx) (s : State), s.mem.wf → s.i.toNat + 2 ≤ 0xFFF →
    ∃ t, exec (.ldBVx x) s = .next t ∧
      (0x50 ≤ s.indexAddr 0 → (t.mem.read (s.indexAddr 0)).toNat = (s.readV x).toNat / 100) ∧
      (0x50 ≤ s.indexAddr 1 → (t.mem.read (s.indexAddr 1)).toNat = (s.readV x).toNat / 10 % 10) ∧
      (0x50 ≤ s.indexAddr 2 → (t.mem.read (s.indexAddr 2)).toNat = (s.readV x).toNat % 10) ∧
      (∀ a < 0x50, t.mem.read a = s.mem.read a) ∧
      t.pc = s.pc + 2#16 ∧ OnlyChanges (.pc :: indexBytes s 3) s t

/-- LD [I], Vx in range: V0..Vx at I..I+x, bytes aimed at the glyph ROM discarded; I unchanged
(44_index_memory.md R205; the spec's own decisions D4, D5, D12, D18: logs 6, 7, 13, 20; D5 is that the reserved
region 0x050-0x1FF is stored into as any RAM). -/
def Obligations.StoreRegisterBlock : Prop :=
  ∀ (x : RegIdx) (s : State), s.mem.wf → s.i.toNat + x.toNat ≤ 0xFFF →
    ∃ t, exec (.ldMemVx x) s = .next t ∧
      (∀ k : RegIdx, k ≤ x → 0x50 ≤ s.indexAddr k.toNat →
        t.mem.read (s.indexAddr k.toNat) = s.readV k) ∧
      (∀ a < 0x50, t.mem.read a = s.mem.read a) ∧
      t.pc = s.pc + 2#16 ∧ OnlyChanges (.pc :: indexBytes s (x.toNat + 1)) s t

/-- LD Vx, [I] in range: V0..Vx from I..I+x; I and memory unchanged (44_index_memory.md R206; the spec's own
decisions D5, the reserved region is read as any RAM, D12, D18: logs 7, 13, 20). -/
def Obligations.LoadRegisterBlock : Prop :=
  ∀ (x : RegIdx) (s : State), s.i.toNat + x.toNat ≤ 0xFFF →
    ∃ t, exec (.ldVxMem x) s = .next t ∧
      (∀ k : RegIdx, k ≤ x → t.readV k = s.mem.read (s.i.toNat + k.toNat)) ∧
      (∀ k : RegIdx, x < k → t.readV k = s.readV k) ∧
      t.pc = s.pc + 2#16 ∧
      OnlyChanges (.pc :: (List.range (x.toNat + 1)).map fun k => .reg (BitVec.ofNat 4 k)) s t

/-- An index-relative access outside the 4096 bytes faults before any effect: DRW (n > 0), Fx33, Fx55, Fx65
(60_exceptions.md R242). That addresses are unbounded and all checked first, so that nothing is partly
written, is the spec's own decision D12 (log 13); that a fault changes nothing but Halt, PC kept, D13 (log 14). -/
def Obligations.IndexAccessOutsideMemoryFaults : Prop :=
  ∀ (x y : RegIdx) (n : Nibble) (s : State),
    (0 < n.toNat → 0xFFF < s.i.toNat + n.toNat - 1 →
      ∃ t r, exec (.drw x y n) s = .next t ∧ t.halt = some r ∧ r.kind = .address .dataRead ∧
        OnlyChanges [.halt] s t) ∧
    (0xFFF < s.i.toNat + 2 →
      ∃ t r, exec (.ldBVx x) s = .next t ∧ t.halt = some r ∧ r.kind = .address .dataWrite ∧
        OnlyChanges [.halt] s t) ∧
    (0xFFF < s.i.toNat + x.toNat →
      (∃ t r, exec (.ldMemVx x) s = .next t ∧ t.halt = some r ∧ r.kind = .address .dataWrite ∧
        OnlyChanges [.halt] s t) ∧
      (∃ t r, exec (.ldVxMem x) s = .next t ∧ t.halt = some r ∧ r.kind = .address .dataRead ∧
        OnlyChanges [.halt] s t))

/-- Storing V0..Vx and loading them back from the same index leaves every register as it was
(44_index_memory.md R207, derived there; I unchanged by Fx55 is the spec's own decision D18, log 20, and the
reserved region 0x050-0x1FF as ordinary RAM its own decision D5, log 7). -/
def Obligations.StoreThenLoadRestoresRegisters : Prop :=
  ∀ (x : RegIdx) (s : State), s.mem.wf → 0x50 ≤ s.i.toNat → s.i.toNat + x.toNat ≤ 0xFFF →
    ∃ t u, exec (.ldMemVx x) s = .next t ∧ exec (.ldVxMem x) t = .next u ∧
      (∀ r, u.readV r = s.readV r) ∧ u.i = s.i

/-- A word stored by Fx55 is what the next fetch of that address reads (20_memory.md R73, derived there; the
spec's own decision D22, log 22; a store landing in the reserved region 0x050-0x1FF is its own decision D5, log 7,
and the fetch at an odd address D16, log 18). -/
def Obligations.StoredCodeIsFetched : Prop :=
  ∀ (x k : RegIdx) (s : State), s.mem.wf → 0x50 ≤ s.i.toNat + k.toNat →
    s.i.toNat + x.toNat ≤ 0xFFF → k.toNat + 1 ≤ x.toNat →
    ∃ t, exec (.ldMemVx x) s = .next t ∧
      ({ t with pc := BitVec.ofNat 16 (s.i.toNat + k.toNat) } : State).fetch =
        some (wordOfBytes (s.readV k) (s.readV (k + 1#4)))

/-! ## Random, input latch, timers -/

/-- RND Vx, kk completes in every state: Vx is the draw masked by kk, hence 0 outside kk for every draw, and
the next RND takes another draw (45_random_input_timers.md R220; 00_scope.md R14; a free draw is the spec's
own decision D11, log 4). The draw, `State.nextDraw`, is free by `Config.draw`: nothing is said of its value. -/
def Obligations.RndIsAMaskedDraw : Prop :=
  ∀ (x : RegIdx) (kk : Byte) (s : State), ∃ t, exec (.rnd x kk) s = .next t ∧
    t.readV x = s.nextDraw &&& kk ∧ t.draws = s.draws + 1 ∧
    (∀ k, kk.getLsbD k = false → (t.readV x).getLsbD k = false) ∧
    t.pc = s.pc + 2#16 ∧ OnlyChanges [.reg x, .pc, .draws] s t

/-- SKP Vx and SKNP Vx; a value above 0x0F names no key and reads as not set (45_random_input_timers.md R221,
R222; the latter is the spec's own decision D9, log 11). -/
def Obligations.KeySkips : Prop :=
  ∀ (x : RegIdx) (s : State),
    (∃ t, exec (.skp x) s = .next t ∧ OnlyChanges [.pc] s t ∧
      (∀ k : Fin 16, (s.readV x).toNat = k.val →
        t.pc = if s.keys[k] then s.pc + 4#16 else s.pc + 2#16) ∧
      (15 < (s.readV x).toNat → t.pc = s.pc + 2#16)) ∧
    (∃ t, exec (.sknp x) s = .next t ∧ OnlyChanges [.pc] s t ∧
      (∀ k : Fin 16, (s.readV x).toNat = k.val →
        t.pc = if s.keys[k] then s.pc + 2#16 else s.pc + 4#16) ∧
      (15 < (s.readV x).toNat → t.pc = s.pc + 4#16))

/-- LD Vx, DT; LD DT, Vx; LD ST, Vx; encoded Fx07, Fx15, Fx18 (45_random_input_timers.md R223, R225, R226). -/
def Obligations.TimerMoves : Prop :=
  ∀ (x : RegIdx) (s : State),
    decodeWord (0xF#4 ++ x ++ 0x07#8) = .ldVxDt x ∧ decodeWord (0xF#4 ++ x ++ 0x15#8) = .ldDtVx x ∧
    decodeWord (0xF#4 ++ x ++ 0x18#8) = .ldStVx x ∧
    (∃ t, exec (.ldVxDt x) s = .next t ∧ t.readV x = s.dt ∧ t.pc = s.pc + 2#16 ∧
      OnlyChanges [.reg x, .pc] s t) ∧
    (∃ t, exec (.ldDtVx x) s = .next t ∧ t.dt = s.readV x ∧ t.pc = s.pc + 2#16 ∧
      OnlyChanges [.dt, .pc] s t) ∧
    (∃ t, exec (.ldStVx x) s = .next t ∧ t.st = s.readV x ∧ t.pc = s.pc + 2#16 ∧
      OnlyChanges [.st, .pc] s t)

/-- LD Vx, K: with a key set it completes at once with the highest one; with none it records the wait, PC
held (45_random_input_timers.md R224; level-sensitive: the spec's own decision D10, log 12). -/
def Obligations.KeyWaitCompletesOrSuspends : Prop :=
  ∀ (x : RegIdx) (s : State),
    (∀ k : Fin 16, s.keys[k] = true → (∀ j : Fin 16, k < j → s.keys[j] = false) →
      ∃ t, exec (.ldVxK x) s = .next t ∧ t.readV x = BitVec.ofNat 8 k.val ∧ t.wait = none ∧
        t.pc = s.pc + 2#16 ∧ OnlyChanges [.reg x, .wait, .pc] s t) ∧
    ((∀ k : Fin 16, s.keys[k] = false) →
      ∃ t, exec (.ldVxK x) s = .next t ∧ t.wait = some x ∧ OnlyChanges [.wait] s t)

/-! ## Unrecognized words -/

/-- Every unrecognized word (unrec0nnn, unrec5xyn, unrec8xy8, unrec8xy9, unrec8xyA, unrec8xyB, unrec8xyC,
unrec8xyD, unrec8xyF, unrec9xyn, unrecExkk, unrecFxkk) is a no-op that advances PC by 2 and never sets Halt
(40_engine_cycle.md R126; 60_exceptions.md R244). -/
def Obligations.UnrecognizedWordsAreNoOps : Prop :=
  ∀ (i : Instr) (s : State), i.isUnrecognized = true →
    ∃ t, exec i s = .next t ∧ t.pc = s.pc + 2#16 ∧ OnlyChanges [.pc] s t

/-! ## Whole-machine rules over all instructions -/

/-- No instruction writes a V register outside its row of the writers' table (10_state.md R23). -/
def Obligations.OnlyListedInstructionsWriteV : Prop :=
  ∀ (i : Instr) (s t : State) (r : RegIdx), exec i s = .next t → r ∉ writesV i → t.readV r = s.readV r

/-- No instruction other than Annn, Fx1E and Fx29 writes I (10_state.md R27; for Fx55 and Fx65 the spec's own
decision D18, log 20). -/
def Obligations.OnlyThreeInstructionsWriteI : Prop :=
  ∀ (i : Instr) (s t : State), exec i s = .next t → t.i ≠ s.i →
    (∃ nnn, i = .ldI nnn) ∨ ∃ x, i = .addIVx x ∨ i = .ldFVx x

/-- Only CALL, by one up, and RET, by one down, write SP, and it stays in [0, 16] (10_state.md R28). -/
def Obligations.OnlyCallAndRetMoveSP : Prop :=
  ∀ (i : Instr) (s t : State), exec i s = .next t →
    t.sp.val ≤ 16 ∧
    (t.sp ≠ s.sp → (∃ nnn, i = .call nnn ∧ t.sp.val = s.sp.val + 1) ∨ (i = .ret ∧ t.sp.val + 1 = s.sp.val))

/-- Only CLS and DRW write the framebuffer: CLS sets every pixel to zero, DRW composes by XOR with sprite
data; the presenter's read does not mutate it (10_state.md R33; the sprite's bit order is the spec's own
decision D8, log 10). -/
def Obligations.OnlyClsAndDrwWriteFB : Prop :=
  (∀ (i : Instr) (s t : State), exec i s = .next t → t.fb ≠ s.fb →
    (i = .cls ∧ ∀ p < 2048, t.pixel p = false) ∨
    ∃ x y n, i = .drw x y n ∧ ∀ px < 64, ∀ py < 32,
      (t.pixel (py * 64 + px) = true ↔ ¬ (s.pixel (py * 64 + px) = true ↔ SpriteCovers s x y n px py))) ∧
  (∀ s : State, HostOp.readFramebuffer.apply s = (.framebuffer s.fb, s))

/-- No instruction other than Fx33 and Fx55 changes a byte of memory, and none changes one outside the bytes
it stores to (20_memory.md R60, R67). -/
def Obligations.OnlyTwoInstructionsWriteMemory : Prop :=
  ∀ (i : Instr) (s t : State) (a : Nat), s.mem.wf → exec i s = .next t → t.mem.read a ≠ s.mem.read a →
    ∃ x, (i = .ldBVx x ∧ s.i.toNat ≤ a ∧ a ≤ s.i.toNat + 2) ∨
      (i = .ldMemVx x ∧ s.i.toNat ≤ a ∧ a ≤ s.i.toNat + x.toNat)

/-- No instruction writes the input latch, and none but Ex9E, ExA1 and Fx0A reads it: with another latch
every other instruction does the same; the refresh overwrites it, and no other host operation but reset
touches it (10_state.md R32). -/
def Obligations.InputLatchIsReadByThreeAndWrittenByNone : Prop :=
  (∀ (i : Instr) (s t : State), exec i s = .next t → t.keys = s.keys) ∧
  (∀ (i : Instr) (s : State) (k : Vector Bool 16), ¬ ReadsKeys i →
    ∃ t, exec i s = .next t ∧ exec i { s with keys := k } = .next { t with keys := k }) ∧
  (∀ (s : State) (k : Vector Bool 16), ((HostOp.refreshKeys k).apply s).2.keys = k) ∧
  (∀ (s : State) (op : HostOp), (∀ k, op ≠ .refreshKeys k) → op ≠ .reset →
    (op.apply s).2.keys = s.keys)

/-- DT is written by Fx15 alone and read by Fx07 alone; ST is written by Fx18 alone and read by no
instruction; both fall by one per tick while above 0; the audio collaborator reads ST (10_state.md R30). -/
def Obligations.TimersGateNoInstruction : Prop :=
  (∀ (i : Instr) (s t : State), exec i s = .next t → t.dt ≠ s.dt → ∃ x, i = .ldDtVx x) ∧
  (∀ (i : Instr) (s t : State), exec i s = .next t → t.st ≠ s.st → ∃ x, i = .ldStVx x) ∧
  (∀ (i : Instr) (s : State) (b : Byte), ∃ t t', exec i s = .next t ∧
    exec i { s with st := b } = .next t' ∧ t' = { t with st := t'.st }) ∧
  (∀ (i : Instr) (s : State) (b : Byte), (∀ x, i ≠ .ldVxDt x) → ∃ t t', exec i s = .next t ∧
    exec i { s with dt := b } = .next t' ∧ t' = { t with dt := t'.dt }) ∧
  (∀ s : State, s.tick.dt.toNat = s.dt.toNat - 1 ∧ s.tick.st.toNat = s.st.toNat - 1) ∧
  (∀ s : State, HostOp.readSoundTimer.apply s = (.soundTimer s.st, s))

/-- The key wait is entered only by an Fx0A that finds no key set, left only by a step that finds one set or
by reset, and everything survives a waiting step (60_exceptions.md R262, R259; 45_random_input_timers.md R224).
The level-sensitive entry, the resumption from Wait alone and the ending by reset are the spec's own decision
D10, log 12. This is the "only" direction; that such an Fx0A does enter and such a step and a reset do leave is
KeyWaitCompletesOrSuspends, WaitingStepResumesKeyWait and ResetSetsEveryComponent. -/
def Obligations.WaitIsEnteredAndLeftAsStated : Prop :=
  (∀ (e : Event) (s : State) (x : RegIdx), s.wait = none → (e.apply s).wait = some x →
    e = .step ∧ s.halt = none ∧ (∀ k : Fin 16, s.keys[k] = false) ∧
      ∃ w, s.fetch = some w ∧ decodeWord w = .ldVxK x) ∧
  (∀ (e : Event) (s : State) (x : RegIdx), s.wait = some x → (e.apply s).wait ≠ some x →
    (e = .step ∧ s.halt = none ∧ ∃ k : Fin 16, s.keys[k] = true) ∨ e = .host .reset) ∧
  (∀ (s : State) (x : RegIdx), s.wait = some x → (∀ k : Fin 16, s.keys[k] = false) →
    Event.step.apply s = s)

/-- The glyph ROM is never mutated: whatever steps and host operations follow, 0x000-0x04F reads as before
(10_state.md R31; 20_memory.md R63; 70_reset_and_hazards.md R280; that program writes are discarded is the
spec's own decision D4, log 6). -/
def Obligations.GlyphRomIsNeverMutated : Prop :=
  ∀ (s : State) (es : List Event) (a : Nat), a < 0x50 → (runEvents s es).mem.read a = s.mem.read a

/-! ## The invariant -/

/-- The invariant holds after reset, with no key wait and no fault record, whatever the glyph table
(10_state.md R38; its values other than PC and the glyphs are the spec's own decision D2, log 2). -/
def Obligations.InvariantHoldsAtReset : Prop :=
  ∀ g : Vector Byte Config.glyphSize, (State.resetWith g).Inv ∧ (State.resetWith g).wait = none ∧
    (State.resetWith g).halt = none

/-- Every step keeps the invariant: memory in canonical form, PC at most 0x10FE, stack slots fetchable
addresses, a wait at a fetchable PC, a record of the table (10_state.md R26, R29, R36, R37). -/
def Obligations.StepKeepsInvariant : Prop :=
  ∀ s t : State, s.Inv → step s = .next t → t.Inv

/-- Every interleaving of steps and host operations keeps the invariant (60_exceptions.md R253; the
spec's own decisions D20, D28, log 5). -/
def Obligations.EveryInterleavingKeepsInvariant : Prop :=
  ∀ (s : State) (es : List Event), s.Inv → (runEvents s es).Inv

/-- In a state of the invariant PC arithmetic never wraps: an executed instruction that does not jump leaves
PC two or four higher as a number (10_state.md R26; 40_engine_cycle.md R124). -/
def Obligations.PCNeverWraps : Prop :=
  ∀ (s t : State), s.Inv → s.halt = none → step s = .next t → t.pc.toNat ≤ 0x10FE ∧
    ((∀ w, s.fetch = some w → (∀ nnn, decodeWord w ≠ .jp nnn ∧ decodeWord w ≠ .call nnn ∧
        decodeWord w ≠ .jpV0 nnn) ∧ decodeWord w ≠ .ret) →
      t.pc.toNat = s.pc.toNat ∨ t.pc.toNat = s.pc.toNat + 2 ∨ t.pc.toNat = s.pc.toNat + 4)

/-! ## The host interface -/

/-- tick() takes one off each timer that is above 0 and changes nothing else, halted and waiting included; n
ticks take n, held at zero (60_exceptions.md R250). That a tick is defined on a halted or waiting CORE is the
spec's own decision D28 (R253; 40_engine_cycle.md R127; log 5). -/
def Obligations.TicksCountDownAndHoldAtZero : Prop :=
  ∀ (s : State) (n : Nat),
    (runEvents s (List.replicate n (.host .tick))).dt.toNat = s.dt.toNat - n ∧
    (runEvents s (List.replicate n (.host .tick))).st.toNat = s.st.toNat - n ∧
    OnlyChanges [.dt, .st] s (runEvents s (List.replicate n (.host .tick)))

/-- refreshKeys(k) overwrites all 16 entries at once, clearing stale ones, and changes nothing else
(60_exceptions.md R254). -/
def Obligations.RefreshOverwritesEveryKey : Prop :=
  ∀ (s : State) (k : Vector Bool 16),
    (∀ j : Fin 16, ((HostOp.refreshKeys k).apply s).2.keys[j] = k[j]) ∧
    OnlyChanges [.keys] s ((HostOp.refreshKeys k).apply s).2

/-- load(bytes): up to 3584 bytes go to 0x200 on and nothing else changes; one more is rejected with no change
and answers LoaderOversize with code 0x21 (60_exceptions.md R240, R256; rejecting is the spec's resolution C3
and own decision D21, log 24; the number is its own decision D14, log 15). -/
def Obligations.LoadWritesOrRejects : Prop :=
  ∀ (s : State) (bytes : List Byte), s.mem.wf →
    (3584 < bytes.length → s.load bytes = (.rejected .loaderOversize 0x21#8, s)) ∧
    (bytes.length ≤ 3584 → ∃ t, s.load bytes = (.ok, t) ∧
      (∀ k, ∀ h : k < bytes.length, t.mem.read (0x200 + k) = bytes[k]) ∧
      OnlyChanges ((List.range bytes.length).map fun k => .byte (0x200 + k)) s t)

/-- reset() from any state, a fault and a key wait included: every component at its value of 10_state.md R38,
the glyph ROM kept (70_reset_and_hazards.md R280; the values other than PC and the glyphs are the spec's own
decision D2, log 2). -/
def Obligations.ResetSetsEveryComponent : Prop :=
  ∀ s t : State, t = (HostOp.reset.apply s).2 →
    t.pc.toNat = 0x200 ∧ (∀ a < 0x50, t.mem.read a = s.mem.read a) ∧
    (∀ a, 0x50 ≤ a → t.mem.read a = 0#8) ∧ (∀ r, t.readV r = 0#8) ∧ t.i = 0#16 ∧ t.sp.val = 0 ∧
    (∀ k : Fin 16, t.stack[k] = 0#16) ∧ t.dt = 0#8 ∧ t.st = 0#8 ∧ (∀ k : Fin 16, t.keys[k] = false) ∧
    (∀ p < 2048, t.pixel p = false) ∧ t.wait = none ∧ t.halt = none ∧ t.stepResult = .executed

/-- readFramebuffer, readSoundTimer and readFault return FB, ST and Halt and change nothing
(60_exceptions.md R255, R257). readFault, and that every read is defined in every state, stand in R253's
table, the spec's own decisions D1 and D28 (log 5). -/
def Obligations.HostReadsChangeNothing : Prop :=
  ∀ s : State,
    HostOp.readFramebuffer.apply s = (.framebuffer s.fb, s) ∧
    HostOp.readSoundTimer.apply s = (.soundTimer s.st, s) ∧
    HostOp.readFault.apply s = (.fault s.halt, s) ∧
    (s.soundOn = true ↔ s.st.toNat ≠ 0)
end

