-- ==== Sys2Proof/Laws/Decode.lean ====
section
/-! SUPPORT. The fields of a word, and of a word built in each format (spec/30_encoding.md R91, R92). -/

namespace Sys2Proof

theorem getLsbD_formatNNN (op : Nibble) (nnn : Addr12) (k : Nat) :
    (formatNNN op nnn).getLsbD k = if k < 12 then nnn.getLsbD k else op.getLsbD (k - 12) := by
  have h := BitVec.getLsbD_append (x := op) (y := nnn) (i := k)
  exact h

theorem getLsbD_formatXKK (op : Nibble) (x : RegIdx) (kk : Byte) (k : Nat) :
    (formatXKK op x kk).getLsbD k =
      if k < 8 then kk.getLsbD k else if k - 8 < 4 then x.getLsbD (k - 8) else op.getLsbD (k - 8 - 4) := by
  have h := BitVec.getLsbD_append (x := op ++ x) (y := kk) (i := k)
  rw [BitVec.getLsbD_append (x := op) (y := x)] at h
  exact h

theorem getLsbD_formatXYN (op : Nibble) (x y : RegIdx) (n : Nibble) (k : Nat) :
    (formatXYN op x y n).getLsbD k =
      if k < 4 then n.getLsbD k else if k - 4 < 4 then y.getLsbD (k - 4)
      else if k - 4 - 4 < 4 then x.getLsbD (k - 4 - 4) else op.getLsbD (k - 4 - 4 - 4) := by
  have h := BitVec.getLsbD_append (x := op ++ x ++ y) (y := n) (i := k)
  rw [BitVec.getLsbD_append (x := op ++ x) (y := y), BitVec.getLsbD_append (x := op) (y := x)] at h
  exact h

/-! ## Fields of a format -/

@[simp] theorem opField_formatNNN (op : Nibble) (nnn : Addr12) : opField (formatNNN op nnn) = op := by
  ext k hk
  simp [opField, BitVec.getLsbD_extractLsb', getLsbD_formatNNN, ← BitVec.getLsbD_eq_getElem, hk]

@[simp] theorem nnnField_formatNNN (op : Nibble) (nnn : Addr12) : nnnField (formatNNN op nnn) = nnn := by
  ext k hk
  simp [nnnField, BitVec.getLsbD_extractLsb', getLsbD_formatNNN, ← BitVec.getLsbD_eq_getElem, hk]

@[simp] theorem opField_formatXKK (op : Nibble) (x : RegIdx) (kk : Byte) :
    opField (formatXKK op x kk) = op := by
  ext k hk
  simp [opField, BitVec.getLsbD_extractLsb', getLsbD_formatXKK, ← BitVec.getLsbD_eq_getElem, hk]
  grind

@[simp] theorem xField_formatXKK (op : Nibble) (x : RegIdx) (kk : Byte) :
    xField (formatXKK op x kk) = x := by
  ext k hk
  simp [xField, BitVec.getLsbD_extractLsb', getLsbD_formatXKK, ← BitVec.getLsbD_eq_getElem, hk]

@[simp] theorem kkField_formatXKK (op : Nibble) (x : RegIdx) (kk : Byte) :
    kkField (formatXKK op x kk) = kk := by
  ext k hk
  simp [kkField, BitVec.getLsbD_extractLsb', getLsbD_formatXKK, ← BitVec.getLsbD_eq_getElem, hk]

@[simp] theorem opField_formatXYN (op : Nibble) (x y : RegIdx) (n : Nibble) :
    opField (formatXYN op x y n) = op := by
  ext k hk
  simp [opField, BitVec.getLsbD_extractLsb', getLsbD_formatXYN, ← BitVec.getLsbD_eq_getElem, hk]
  grind

@[simp] theorem xField_formatXYN (op : Nibble) (x y : RegIdx) (n : Nibble) :
    xField (formatXYN op x y n) = x := by
  ext k hk
  simp [xField, BitVec.getLsbD_extractLsb', getLsbD_formatXYN, ← BitVec.getLsbD_eq_getElem, hk]
  grind

@[simp] theorem yField_formatXYN (op : Nibble) (x y : RegIdx) (n : Nibble) :
    yField (formatXYN op x y n) = y := by
  ext k hk
  simp [yField, BitVec.getLsbD_extractLsb', getLsbD_formatXYN, ← BitVec.getLsbD_eq_getElem, hk]

@[simp] theorem nField_formatXYN (op : Nibble) (x y : RegIdx) (n : Nibble) :
    nField (formatXYN op x y n) = n := by
  ext k hk
  simp [nField, BitVec.getLsbD_extractLsb', getLsbD_formatXYN, ← BitVec.getLsbD_eq_getElem, hk]

/-! ## A word is its fields, in each format -/

@[simp] theorem formatNNN_fields (w : Word) : formatNNN (opField w) (nnnField w) = w := by
  ext k hk
  simp only [← BitVec.getLsbD_eq_getElem, getLsbD_formatNNN, opField, nnnField, BitVec.getLsbD_extractLsb']
  grind

@[simp] theorem formatXKK_fields (w : Word) : formatXKK (opField w) (xField w) (kkField w) = w := by
  ext k hk
  simp only [← BitVec.getLsbD_eq_getElem, getLsbD_formatXKK, opField, xField, kkField,
    BitVec.getLsbD_extractLsb']
  grind

@[simp] theorem formatXYN_fields (w : Word) :
    formatXYN (opField w) (xField w) (yField w) (nField w) = w := by
  ext k hk
  simp only [← BitVec.getLsbD_eq_getElem, getLsbD_formatXYN, opField, xField, yField, nField,
    BitVec.getLsbD_extractLsb']
  grind

/-! ## A word and its two bytes (spec/20_memory.md R65) -/

@[simp] theorem wordOfBytes_bytes (w : Word) :
    wordOfBytes (w.extractLsb' 8 8) (w.extractLsb' 0 8) = w := by
  ext k hk
  simp only [wordOfBytes, ← BitVec.getLsbD_eq_getElem, BitVec.getLsbD_append, BitVec.getLsbD_extractLsb']
  grind

theorem toNat_wordOfBytes (hi lo : Byte) : (wordOfBytes hi lo).toNat = hi.toNat * 256 + lo.toNat := by
  have h := lo.isLt
  simp only [wordOfBytes, BitVec.toNat_append]
  rw [Nat.shiftLeft_eq, Nat.mul_comm, ← Nat.two_pow_add_eq_or_of_lt h]

end Sys2Proof
end

