-- ==== Sys2Proof/Laws/Display.lean ====
section
/-! SUPPORT. What the sprite blit does to each pixel and to the collision (spec/41_display.md R141). -/

namespace Sys2Proof.Machine

theorem getLsbD_blitPixel (acc : Bitplane × Bool) (q : Nat × Bool) (p : Nat) (hp : p < 2048) :
    (blitPixel acc q).1.getLsbD p = (acc.1.getLsbD p ^^ (q.2 && decide (q.1 = p))) := by
  unfold blitPixel
  cases hq : q.2
  · simp
  · by_cases h : p = q.1
    · subst h; simp [hp]
    · simp [h, Ne.symm h, hp]

/-- Over pixels that are all different: a pixel is flipped exactly where the sprite has a 1 there. -/
theorem getLsbD_foldl_blitPixel (px : List (Nat × Bool)) (acc : Bitplane × Bool)
    (hd : (px.map Prod.fst).Nodup) (p : Nat) (hp : p < 2048) :
    (px.foldl blitPixel acc).1.getLsbD p = (acc.1.getLsbD p ^^ decide ((p, true) ∈ px)) := by
  induction px generalizing acc with
  | nil => simp
  | cons q px ih =>
    obtain ⟨hq, hd⟩ := List.nodup_cons.1 (List.map_cons ▸ hd)
    rw [List.foldl_cons, ih _ hd, getLsbD_blitPixel _ _ _ hp]
    obtain ⟨q1, q2⟩ := q
    by_cases h : q1 = p
    · subst h
      have hn : (q1, true) ∉ px := fun hm => hq (List.mem_map.2 ⟨_, hm, rfl⟩)
      cases q2 <;> simp [hn]
    · have : (p, true) ≠ (q1, q2) := fun e => h (by simpa using (congrArg Prod.fst e).symm)
      simp [h, this]

/-- Over pixels that are all different: the collision is set exactly when some flipped pixel was 1. -/
theorem snd_foldl_blitPixel (px : List (Nat × Bool)) (acc : Bitplane × Bool)
    (hd : (px.map Prod.fst).Nodup) (hp : ∀ q ∈ px, q.1 < 2048) :
    (px.foldl blitPixel acc).2 = (acc.2 || px.any fun q => q.2 && acc.1.getLsbD q.1) := by
  induction px generalizing acc with
  | nil => simp
  | cons q px ih =>
    obtain ⟨hq, hd⟩ := List.nodup_cons.1 (List.map_cons ▸ hd)
    rw [List.foldl_cons, ih _ hd fun r hr => hp r (by simp [hr]), List.any_cons, ← Bool.or_assoc]
    congr 1
    · unfold blitPixel
      cases q.2 <;> simp
    · rw [Bool.eq_iff_iff, List.any_eq_true, List.any_eq_true]
      refine exists_congr fun r => and_congr_right fun hr => ?_
      have hne : q.1 ≠ r.1 := fun e => hq (List.mem_map.2 ⟨r, hr, e.symm⟩)
      rw [getLsbD_blitPixel _ _ _ (hp r (by simp [hr]))]
      simp [hne]

/-- The pixels of a sprite: bit 7-j of row i, at the wrapped coordinates. -/
theorem mem_spritePixels {x0 y0 : Byte} {rows : List Byte} {q : Nat × Bool} :
    q ∈ spritePixels x0 y0 rows ↔
      ∃ i, ∃ h : i < rows.length, ∃ j < 8,
        q = (pixelIndex ((x0.toNat + j) % 64) ((y0.toNat + i) % 32), rows[i].getLsbD (7 - j)) := by
  simp only [spritePixels, List.mem_flatMap, List.mem_map, List.mem_range, Prod.exists,
    List.mem_zipIdx_iff_getElem?, List.getElem?_eq_some_iff]
  constructor
  · rintro ⟨b, i, ⟨h, hb⟩, j, hj, rfl⟩
    exact ⟨i, h, j, hj, by rw [hb]⟩
  · rintro ⟨i, h, j, hj, rfl⟩
    exact ⟨_, i, ⟨h, rfl⟩, j, hj, rfl⟩

theorem spritePixels_lt {x0 y0 : Byte} {rows : List Byte} {q : Nat × Bool}
    (hq : q ∈ spritePixels x0 y0 rows) : q.1 < 2048 := by
  obtain ⟨i, h, j, hj, rfl⟩ := mem_spritePixels.1 hq
  simp only [pixelIndex, Config.fbWidth]
  omega

/-- Each pixel is touched at most once: 8 columns are fewer than 64, at most 32 rows wrap onto none. -/
theorem nodup_spritePixels (x0 y0 : Byte) (rows : List Byte) (h : rows.length ≤ 32) :
    ((spritePixels x0 y0 rows).map Prod.fst).Nodup := by
  simp only [spritePixels, List.map_flatMap, List.map_map, List.nodup_flatMap]
  constructor
  · intro r _
    refine List.Nodup.map_on (fun j hj k hk e => ?_) List.nodup_range
    simp only [List.mem_range] at hj hk
    simp only [Function.comp, pixelIndex, Config.fbWidth, Config.fbHeight] at e
    omega
  · rw [List.pairwise_iff_getElem]
    intro i j hi hj hij
    simp only [List.length_zipIdx] at hi hj
    simp only [Function.onFun, List.disjoint_left, List.mem_map, List.mem_range, Function.comp,
      List.getElem_zipIdx, pixelIndex, Config.fbWidth, Config.fbHeight]
    rintro p ⟨c, hc, rfl⟩ ⟨d, hd, e⟩
    omega

end Sys2Proof.Machine
end

