-- ==== Sys2Proof/Laws/State.lean ====
section
/-! SUPPORT. The small lemmas of State: what each update does to each field, and reading a register after an
update. -/

namespace Sys2Proof.Machine

/-! ## Fields an update writes -/

@[simp] theorem State.writeI_i (s : State) (w : Word) : (s.writeI w).i = w := rfl
@[simp] theorem State.writeFB_fb (s : State) (p : Bitplane) : (s.writeFB p).fb = p := rfl
@[simp] theorem State.writeMem_mem (s : State) (m : Memory) : (s.writeMem m).mem = m := rfl
@[simp] theorem State.writeWait_wait (s : State) (w : Option RegIdx) : (s.writeWait w).wait = w := rfl
@[simp] theorem State.countDraw_draws (s : State) : s.countDraw.draws = s.draws + 1 := rfl
@[simp] theorem State.writeDT_dt (s : State) (b : Byte) : (s.writeDT b).dt = b := rfl
@[simp] theorem State.writeST_st (s : State) (b : Byte) : (s.writeST b).st = b := rfl
@[simp] theorem State.advance_pc (s : State) : s.advance.pc = s.pc + 2#16 := rfl
@[simp] theorem State.skipIf_pc (s : State) (c : Bool) :
    (s.skipIf c).pc = if c then s.pc + 4#16 else s.pc + 2#16 := rfl
@[simp] theorem State.jumpTo_pc (s : State) (n : Nat) : (s.jumpTo n).pc = BitVec.ofNat 16 n := rfl
@[simp] theorem State.raiseFault_halt (s : State) (k : FaultKind) (o : Option Word) (a : Option Nat) :
    (s.raiseFault k o a).halt = some { kind := k, code := k.code, pc := s.pc, opcode := o, addr := a } := rfl
@[simp] theorem State.tick_dt (s : State) : s.tick.dt = countdown s.dt := rfl
@[simp] theorem State.tick_st (s : State) : s.tick.st = countdown s.st := rfl
@[simp] theorem State.refreshKeys_keys (s : State) (k : Vector Bool 16) : (s.refreshKeys k).keys = k := rfl

/-! ## Registers after an update -/

@[simp] theorem State.readV_writeV (s : State) (x y : RegIdx) (b : Byte) :
    (s.writeV x b).readV y = if x = y then b else s.readV y := by
  simp only [State.readV, State.writeV, Vector.getElem_set, BitVec.toNat_inj]

@[simp] theorem State.readV_writeFlag (s : State) (y : RegIdx) (f : Bool) :
    (s.writeFlag f).readV y = if vf = y then flagByte f else s.readV y := by
  simp only [State.writeFlag, State.readV_writeV]

@[simp] theorem State.readV_writeI (s : State) (x : RegIdx) (w : Word) : (s.writeI w).readV x = s.readV x := rfl
@[simp] theorem State.readV_writeFB (s : State) (x : RegIdx) (p : Bitplane) : (s.writeFB p).readV x = s.readV x := rfl
@[simp] theorem State.readV_writeMem (s : State) (x : RegIdx) (m : Memory) : (s.writeMem m).readV x = s.readV x := rfl
@[simp] theorem State.readV_writeWait (s : State) (x : RegIdx) (w : Option RegIdx) : (s.writeWait w).readV x = s.readV x := rfl
@[simp] theorem State.readV_countDraw (s : State) (x : RegIdx) : s.countDraw.readV x = s.readV x := rfl
@[simp] theorem State.readV_writeDT (s : State) (x : RegIdx) (b : Byte) : (s.writeDT b).readV x = s.readV x := rfl
@[simp] theorem State.readV_writeST (s : State) (x : RegIdx) (b : Byte) : (s.writeST b).readV x = s.readV x := rfl
@[simp] theorem State.readV_advance (s : State) (x : RegIdx) : s.advance.readV x = s.readV x := rfl
@[simp] theorem State.readV_skipIf (s : State) (x : RegIdx) (c : Bool) : (s.skipIf c).readV x = s.readV x := rfl
@[simp] theorem State.readV_jumpTo (s : State) (x : RegIdx) (n : Nat) : (s.jumpTo n).readV x = s.readV x := rfl
@[simp] theorem State.readV_raiseFault (s : State) (x : RegIdx) (k : FaultKind) (o : Option Word) (a : Option Nat) : (s.raiseFault k o a).readV x = s.readV x := rfl
@[simp] theorem State.readV_tick (s : State) (x : RegIdx) : s.tick.readV x = s.readV x := rfl
@[simp] theorem State.readV_refreshKeys (s : State) (x : RegIdx) (k : Vector Bool 16) : (s.refreshKeys k).readV x = s.readV x := rfl

/-! ## Fields an update leaves alone -/

@[simp] theorem State.writeV_i (s : State) (x : RegIdx) (b : Byte) : (s.writeV x b).i = s.i := rfl
@[simp] theorem State.writeV_pc (s : State) (x : RegIdx) (b : Byte) : (s.writeV x b).pc = s.pc := rfl
@[simp] theorem State.writeV_sp (s : State) (x : RegIdx) (b : Byte) : (s.writeV x b).sp = s.sp := rfl
@[simp] theorem State.writeV_stack (s : State) (x : RegIdx) (b : Byte) : (s.writeV x b).stack = s.stack := rfl
@[simp] theorem State.writeV_dt (s : State) (x : RegIdx) (b : Byte) : (s.writeV x b).dt = s.dt := rfl
@[simp] theorem State.writeV_st (s : State) (x : RegIdx) (b : Byte) : (s.writeV x b).st = s.st := rfl
@[simp] theorem State.writeV_keys (s : State) (x : RegIdx) (b : Byte) : (s.writeV x b).keys = s.keys := rfl
@[simp] theorem State.writeV_fb (s : State) (x : RegIdx) (b : Byte) : (s.writeV x b).fb = s.fb := rfl
@[simp] theorem State.writeV_mem (s : State) (x : RegIdx) (b : Byte) : (s.writeV x b).mem = s.mem := rfl
@[simp] theorem State.writeV_wait (s : State) (x : RegIdx) (b : Byte) : (s.writeV x b).wait = s.wait := rfl
@[simp] theorem State.writeV_halt (s : State) (x : RegIdx) (b : Byte) : (s.writeV x b).halt = s.halt := rfl
@[simp] theorem State.writeV_draws (s : State) (x : RegIdx) (b : Byte) : (s.writeV x b).draws = s.draws := rfl

@[simp] theorem State.writeI_v (s : State) (w : Word) : (s.writeI w).v = s.v := rfl
@[simp] theorem State.writeI_pc (s : State) (w : Word) : (s.writeI w).pc = s.pc := rfl
@[simp] theorem State.writeI_sp (s : State) (w : Word) : (s.writeI w).sp = s.sp := rfl
@[simp] theorem State.writeI_stack (s : State) (w : Word) : (s.writeI w).stack = s.stack := rfl
@[simp] theorem State.writeI_dt (s : State) (w : Word) : (s.writeI w).dt = s.dt := rfl
@[simp] theorem State.writeI_st (s : State) (w : Word) : (s.writeI w).st = s.st := rfl
@[simp] theorem State.writeI_keys (s : State) (w : Word) : (s.writeI w).keys = s.keys := rfl
@[simp] theorem State.writeI_fb (s : State) (w : Word) : (s.writeI w).fb = s.fb := rfl
@[simp] theorem State.writeI_mem (s : State) (w : Word) : (s.writeI w).mem = s.mem := rfl
@[simp] theorem State.writeI_wait (s : State) (w : Word) : (s.writeI w).wait = s.wait := rfl
@[simp] theorem State.writeI_halt (s : State) (w : Word) : (s.writeI w).halt = s.halt := rfl
@[simp] theorem State.writeI_draws (s : State) (w : Word) : (s.writeI w).draws = s.draws := rfl

@[simp] theorem State.writeFB_v (s : State) (p : Bitplane) : (s.writeFB p).v = s.v := rfl
@[simp] theorem State.writeFB_i (s : State) (p : Bitplane) : (s.writeFB p).i = s.i := rfl
@[simp] theorem State.writeFB_pc (s : State) (p : Bitplane) : (s.writeFB p).pc = s.pc := rfl
@[simp] theorem State.writeFB_sp (s : State) (p : Bitplane) : (s.writeFB p).sp = s.sp := rfl
@[simp] theorem State.writeFB_stack (s : State) (p : Bitplane) : (s.writeFB p).stack = s.stack := rfl
@[simp] theorem State.writeFB_dt (s : State) (p : Bitplane) : (s.writeFB p).dt = s.dt := rfl
@[simp] theorem State.writeFB_st (s : State) (p : Bitplane) : (s.writeFB p).st = s.st := rfl
@[simp] theorem State.writeFB_keys (s : State) (p : Bitplane) : (s.writeFB p).keys = s.keys := rfl
@[simp] theorem State.writeFB_mem (s : State) (p : Bitplane) : (s.writeFB p).mem = s.mem := rfl
@[simp] theorem State.writeFB_wait (s : State) (p : Bitplane) : (s.writeFB p).wait = s.wait := rfl
@[simp] theorem State.writeFB_halt (s : State) (p : Bitplane) : (s.writeFB p).halt = s.halt := rfl
@[simp] theorem State.writeFB_draws (s : State) (p : Bitplane) : (s.writeFB p).draws = s.draws := rfl

@[simp] theorem State.writeMem_v (s : State) (m : Memory) : (s.writeMem m).v = s.v := rfl
@[simp] theorem State.writeMem_i (s : State) (m : Memory) : (s.writeMem m).i = s.i := rfl
@[simp] theorem State.writeMem_pc (s : State) (m : Memory) : (s.writeMem m).pc = s.pc := rfl
@[simp] theorem State.writeMem_sp (s : State) (m : Memory) : (s.writeMem m).sp = s.sp := rfl
@[simp] theorem State.writeMem_stack (s : State) (m : Memory) : (s.writeMem m).stack = s.stack := rfl
@[simp] theorem State.writeMem_dt (s : State) (m : Memory) : (s.writeMem m).dt = s.dt := rfl
@[simp] theorem State.writeMem_st (s : State) (m : Memory) : (s.writeMem m).st = s.st := rfl
@[simp] theorem State.writeMem_keys (s : State) (m : Memory) : (s.writeMem m).keys = s.keys := rfl
@[simp] theorem State.writeMem_fb (s : State) (m : Memory) : (s.writeMem m).fb = s.fb := rfl
@[simp] theorem State.writeMem_wait (s : State) (m : Memory) : (s.writeMem m).wait = s.wait := rfl
@[simp] theorem State.writeMem_halt (s : State) (m : Memory) : (s.writeMem m).halt = s.halt := rfl
@[simp] theorem State.writeMem_draws (s : State) (m : Memory) : (s.writeMem m).draws = s.draws := rfl

@[simp] theorem State.writeWait_v (s : State) (w : Option RegIdx) : (s.writeWait w).v = s.v := rfl
@[simp] theorem State.writeWait_i (s : State) (w : Option RegIdx) : (s.writeWait w).i = s.i := rfl
@[simp] theorem State.writeWait_pc (s : State) (w : Option RegIdx) : (s.writeWait w).pc = s.pc := rfl
@[simp] theorem State.writeWait_sp (s : State) (w : Option RegIdx) : (s.writeWait w).sp = s.sp := rfl
@[simp] theorem State.writeWait_stack (s : State) (w : Option RegIdx) : (s.writeWait w).stack = s.stack := rfl
@[simp] theorem State.writeWait_dt (s : State) (w : Option RegIdx) : (s.writeWait w).dt = s.dt := rfl
@[simp] theorem State.writeWait_st (s : State) (w : Option RegIdx) : (s.writeWait w).st = s.st := rfl
@[simp] theorem State.writeWait_keys (s : State) (w : Option RegIdx) : (s.writeWait w).keys = s.keys := rfl
@[simp] theorem State.writeWait_fb (s : State) (w : Option RegIdx) : (s.writeWait w).fb = s.fb := rfl
@[simp] theorem State.writeWait_mem (s : State) (w : Option RegIdx) : (s.writeWait w).mem = s.mem := rfl
@[simp] theorem State.writeWait_halt (s : State) (w : Option RegIdx) : (s.writeWait w).halt = s.halt := rfl
@[simp] theorem State.writeWait_draws (s : State) (w : Option RegIdx) : (s.writeWait w).draws = s.draws := rfl

@[simp] theorem State.countDraw_v (s : State) : s.countDraw.v = s.v := rfl
@[simp] theorem State.countDraw_i (s : State) : s.countDraw.i = s.i := rfl
@[simp] theorem State.countDraw_pc (s : State) : s.countDraw.pc = s.pc := rfl
@[simp] theorem State.countDraw_sp (s : State) : s.countDraw.sp = s.sp := rfl
@[simp] theorem State.countDraw_stack (s : State) : s.countDraw.stack = s.stack := rfl
@[simp] theorem State.countDraw_dt (s : State) : s.countDraw.dt = s.dt := rfl
@[simp] theorem State.countDraw_st (s : State) : s.countDraw.st = s.st := rfl
@[simp] theorem State.countDraw_keys (s : State) : s.countDraw.keys = s.keys := rfl
@[simp] theorem State.countDraw_fb (s : State) : s.countDraw.fb = s.fb := rfl
@[simp] theorem State.countDraw_mem (s : State) : s.countDraw.mem = s.mem := rfl
@[simp] theorem State.countDraw_wait (s : State) : s.countDraw.wait = s.wait := rfl
@[simp] theorem State.countDraw_halt (s : State) : s.countDraw.halt = s.halt := rfl

@[simp] theorem State.writeDT_v (s : State) (b : Byte) : (s.writeDT b).v = s.v := rfl
@[simp] theorem State.writeDT_i (s : State) (b : Byte) : (s.writeDT b).i = s.i := rfl
@[simp] theorem State.writeDT_pc (s : State) (b : Byte) : (s.writeDT b).pc = s.pc := rfl
@[simp] theorem State.writeDT_sp (s : State) (b : Byte) : (s.writeDT b).sp = s.sp := rfl
@[simp] theorem State.writeDT_stack (s : State) (b : Byte) : (s.writeDT b).stack = s.stack := rfl
@[simp] theorem State.writeDT_st (s : State) (b : Byte) : (s.writeDT b).st = s.st := rfl
@[simp] theorem State.writeDT_keys (s : State) (b : Byte) : (s.writeDT b).keys = s.keys := rfl
@[simp] theorem State.writeDT_fb (s : State) (b : Byte) : (s.writeDT b).fb = s.fb := rfl
@[simp] theorem State.writeDT_mem (s : State) (b : Byte) : (s.writeDT b).mem = s.mem := rfl
@[simp] theorem State.writeDT_wait (s : State) (b : Byte) : (s.writeDT b).wait = s.wait := rfl
@[simp] theorem State.writeDT_halt (s : State) (b : Byte) : (s.writeDT b).halt = s.halt := rfl
@[simp] theorem State.writeDT_draws (s : State) (b : Byte) : (s.writeDT b).draws = s.draws := rfl

@[simp] theorem State.writeST_v (s : State) (b : Byte) : (s.writeST b).v = s.v := rfl
@[simp] theorem State.writeST_i (s : State) (b : Byte) : (s.writeST b).i = s.i := rfl
@[simp] theorem State.writeST_pc (s : State) (b : Byte) : (s.writeST b).pc = s.pc := rfl
@[simp] theorem State.writeST_sp (s : State) (b : Byte) : (s.writeST b).sp = s.sp := rfl
@[simp] theorem State.writeST_stack (s : State) (b : Byte) : (s.writeST b).stack = s.stack := rfl
@[simp] theorem State.writeST_dt (s : State) (b : Byte) : (s.writeST b).dt = s.dt := rfl
@[simp] theorem State.writeST_keys (s : State) (b : Byte) : (s.writeST b).keys = s.keys := rfl
@[simp] theorem State.writeST_fb (s : State) (b : Byte) : (s.writeST b).fb = s.fb := rfl
@[simp] theorem State.writeST_mem (s : State) (b : Byte) : (s.writeST b).mem = s.mem := rfl
@[simp] theorem State.writeST_wait (s : State) (b : Byte) : (s.writeST b).wait = s.wait := rfl
@[simp] theorem State.writeST_halt (s : State) (b : Byte) : (s.writeST b).halt = s.halt := rfl
@[simp] theorem State.writeST_draws (s : State) (b : Byte) : (s.writeST b).draws = s.draws := rfl

@[simp] theorem State.writeFlag_i (s : State) (f : Bool) : (s.writeFlag f).i = s.i := rfl
@[simp] theorem State.writeFlag_pc (s : State) (f : Bool) : (s.writeFlag f).pc = s.pc := rfl
@[simp] theorem State.writeFlag_sp (s : State) (f : Bool) : (s.writeFlag f).sp = s.sp := rfl
@[simp] theorem State.writeFlag_stack (s : State) (f : Bool) : (s.writeFlag f).stack = s.stack := rfl
@[simp] theorem State.writeFlag_dt (s : State) (f : Bool) : (s.writeFlag f).dt = s.dt := rfl
@[simp] theorem State.writeFlag_st (s : State) (f : Bool) : (s.writeFlag f).st = s.st := rfl
@[simp] theorem State.writeFlag_keys (s : State) (f : Bool) : (s.writeFlag f).keys = s.keys := rfl
@[simp] theorem State.writeFlag_fb (s : State) (f : Bool) : (s.writeFlag f).fb = s.fb := rfl
@[simp] theorem State.writeFlag_mem (s : State) (f : Bool) : (s.writeFlag f).mem = s.mem := rfl
@[simp] theorem State.writeFlag_wait (s : State) (f : Bool) : (s.writeFlag f).wait = s.wait := rfl
@[simp] theorem State.writeFlag_halt (s : State) (f : Bool) : (s.writeFlag f).halt = s.halt := rfl
@[simp] theorem State.writeFlag_draws (s : State) (f : Bool) : (s.writeFlag f).draws = s.draws := rfl

@[simp] theorem State.advance_v (s : State) : s.advance.v = s.v := rfl
@[simp] theorem State.advance_i (s : State) : s.advance.i = s.i := rfl
@[simp] theorem State.advance_sp (s : State) : s.advance.sp = s.sp := rfl
@[simp] theorem State.advance_stack (s : State) : s.advance.stack = s.stack := rfl
@[simp] theorem State.advance_dt (s : State) : s.advance.dt = s.dt := rfl
@[simp] theorem State.advance_st (s : State) : s.advance.st = s.st := rfl
@[simp] theorem State.advance_keys (s : State) : s.advance.keys = s.keys := rfl
@[simp] theorem State.advance_fb (s : State) : s.advance.fb = s.fb := rfl
@[simp] theorem State.advance_mem (s : State) : s.advance.mem = s.mem := rfl
@[simp] theorem State.advance_wait (s : State) : s.advance.wait = s.wait := rfl
@[simp] theorem State.advance_halt (s : State) : s.advance.halt = s.halt := rfl
@[simp] theorem State.advance_draws (s : State) : s.advance.draws = s.draws := rfl

@[simp] theorem State.skipIf_v (s : State) (c : Bool) : (s.skipIf c).v = s.v := rfl
@[simp] theorem State.skipIf_i (s : State) (c : Bool) : (s.skipIf c).i = s.i := rfl
@[simp] theorem State.skipIf_sp (s : State) (c : Bool) : (s.skipIf c).sp = s.sp := rfl
@[simp] theorem State.skipIf_stack (s : State) (c : Bool) : (s.skipIf c).stack = s.stack := rfl
@[simp] theorem State.skipIf_dt (s : State) (c : Bool) : (s.skipIf c).dt = s.dt := rfl
@[simp] theorem State.skipIf_st (s : State) (c : Bool) : (s.skipIf c).st = s.st := rfl
@[simp] theorem State.skipIf_keys (s : State) (c : Bool) : (s.skipIf c).keys = s.keys := rfl
@[simp] theorem State.skipIf_fb (s : State) (c : Bool) : (s.skipIf c).fb = s.fb := rfl
@[simp] theorem State.skipIf_mem (s : State) (c : Bool) : (s.skipIf c).mem = s.mem := rfl
@[simp] theorem State.skipIf_wait (s : State) (c : Bool) : (s.skipIf c).wait = s.wait := rfl
@[simp] theorem State.skipIf_halt (s : State) (c : Bool) : (s.skipIf c).halt = s.halt := rfl
@[simp] theorem State.skipIf_draws (s : State) (c : Bool) : (s.skipIf c).draws = s.draws := rfl

@[simp] theorem State.jumpTo_v (s : State) (n : Nat) : (s.jumpTo n).v = s.v := rfl
@[simp] theorem State.jumpTo_i (s : State) (n : Nat) : (s.jumpTo n).i = s.i := rfl
@[simp] theorem State.jumpTo_sp (s : State) (n : Nat) : (s.jumpTo n).sp = s.sp := rfl
@[simp] theorem State.jumpTo_stack (s : State) (n : Nat) : (s.jumpTo n).stack = s.stack := rfl
@[simp] theorem State.jumpTo_dt (s : State) (n : Nat) : (s.jumpTo n).dt = s.dt := rfl
@[simp] theorem State.jumpTo_st (s : State) (n : Nat) : (s.jumpTo n).st = s.st := rfl
@[simp] theorem State.jumpTo_keys (s : State) (n : Nat) : (s.jumpTo n).keys = s.keys := rfl
@[simp] theorem State.jumpTo_fb (s : State) (n : Nat) : (s.jumpTo n).fb = s.fb := rfl
@[simp] theorem State.jumpTo_mem (s : State) (n : Nat) : (s.jumpTo n).mem = s.mem := rfl
@[simp] theorem State.jumpTo_wait (s : State) (n : Nat) : (s.jumpTo n).wait = s.wait := rfl
@[simp] theorem State.jumpTo_halt (s : State) (n : Nat) : (s.jumpTo n).halt = s.halt := rfl
@[simp] theorem State.jumpTo_draws (s : State) (n : Nat) : (s.jumpTo n).draws = s.draws := rfl

@[simp] theorem State.raiseFault_v (s : State) (k : FaultKind) (o : Option Word) (a : Option Nat) :
    (s.raiseFault k o a).v = s.v := rfl
@[simp] theorem State.raiseFault_i (s : State) (k : FaultKind) (o : Option Word) (a : Option Nat) :
    (s.raiseFault k o a).i = s.i := rfl
@[simp] theorem State.raiseFault_pc (s : State) (k : FaultKind) (o : Option Word) (a : Option Nat) :
    (s.raiseFault k o a).pc = s.pc := rfl
@[simp] theorem State.raiseFault_sp (s : State) (k : FaultKind) (o : Option Word) (a : Option Nat) :
    (s.raiseFault k o a).sp = s.sp := rfl
@[simp] theorem State.raiseFault_stack (s : State) (k : FaultKind) (o : Option Word) (a : Option Nat) :
    (s.raiseFault k o a).stack = s.stack := rfl
@[simp] theorem State.raiseFault_dt (s : State) (k : FaultKind) (o : Option Word) (a : Option Nat) :
    (s.raiseFault k o a).dt = s.dt := rfl
@[simp] theorem State.raiseFault_st (s : State) (k : FaultKind) (o : Option Word) (a : Option Nat) :
    (s.raiseFault k o a).st = s.st := rfl
@[simp] theorem State.raiseFault_keys (s : State) (k : FaultKind) (o : Option Word) (a : Option Nat) :
    (s.raiseFault k o a).keys = s.keys := rfl
@[simp] theorem State.raiseFault_fb (s : State) (k : FaultKind) (o : Option Word) (a : Option Nat) :
    (s.raiseFault k o a).fb = s.fb := rfl
@[simp] theorem State.raiseFault_mem (s : State) (k : FaultKind) (o : Option Word) (a : Option Nat) :
    (s.raiseFault k o a).mem = s.mem := rfl
@[simp] theorem State.raiseFault_wait (s : State) (k : FaultKind) (o : Option Word) (a : Option Nat) :
    (s.raiseFault k o a).wait = s.wait := rfl
@[simp] theorem State.raiseFault_draws (s : State) (k : FaultKind) (o : Option Word) (a : Option Nat) :
    (s.raiseFault k o a).draws = s.draws := rfl

@[simp] theorem State.tick_v (s : State) : s.tick.v = s.v := rfl
@[simp] theorem State.tick_i (s : State) : s.tick.i = s.i := rfl
@[simp] theorem State.tick_pc (s : State) : s.tick.pc = s.pc := rfl
@[simp] theorem State.tick_sp (s : State) : s.tick.sp = s.sp := rfl
@[simp] theorem State.tick_stack (s : State) : s.tick.stack = s.stack := rfl
@[simp] theorem State.tick_keys (s : State) : s.tick.keys = s.keys := rfl
@[simp] theorem State.tick_fb (s : State) : s.tick.fb = s.fb := rfl
@[simp] theorem State.tick_mem (s : State) : s.tick.mem = s.mem := rfl
@[simp] theorem State.tick_wait (s : State) : s.tick.wait = s.wait := rfl
@[simp] theorem State.tick_halt (s : State) : s.tick.halt = s.halt := rfl
@[simp] theorem State.tick_draws (s : State) : s.tick.draws = s.draws := rfl

@[simp] theorem State.refreshKeys_v (s : State) (k : Vector Bool 16) : (s.refreshKeys k).v = s.v := rfl
@[simp] theorem State.refreshKeys_i (s : State) (k : Vector Bool 16) : (s.refreshKeys k).i = s.i := rfl
@[simp] theorem State.refreshKeys_pc (s : State) (k : Vector Bool 16) : (s.refreshKeys k).pc = s.pc := rfl
@[simp] theorem State.refreshKeys_sp (s : State) (k : Vector Bool 16) : (s.refreshKeys k).sp = s.sp := rfl
@[simp] theorem State.refreshKeys_stack (s : State) (k : Vector Bool 16) :
    (s.refreshKeys k).stack = s.stack := rfl
@[simp] theorem State.refreshKeys_dt (s : State) (k : Vector Bool 16) : (s.refreshKeys k).dt = s.dt := rfl
@[simp] theorem State.refreshKeys_st (s : State) (k : Vector Bool 16) : (s.refreshKeys k).st = s.st := rfl
@[simp] theorem State.refreshKeys_fb (s : State) (k : Vector Bool 16) : (s.refreshKeys k).fb = s.fb := rfl
@[simp] theorem State.refreshKeys_mem (s : State) (k : Vector Bool 16) : (s.refreshKeys k).mem = s.mem := rfl
@[simp] theorem State.refreshKeys_wait (s : State) (k : Vector Bool 16) :
    (s.refreshKeys k).wait = s.wait := rfl
@[simp] theorem State.refreshKeys_halt (s : State) (k : Vector Bool 16) :
    (s.refreshKeys k).halt = s.halt := rfl
@[simp] theorem State.refreshKeys_draws (s : State) (k : Vector Bool 16) :
    (s.refreshKeys k).draws = s.draws := rfl

/-! ## The state after reset -/

@[simp] theorem State.reset_halt : State.reset.halt = none := rfl
@[simp] theorem State.reset_wait : State.reset.wait = none := rfl
@[simp] theorem State.reset_pc : State.reset.pc = 0x200#16 := rfl

end Sys2Proof.Machine
end

