-- ==== Sys2Proof/Laws/Ops.lean ====
section
/-! SUPPORT. One specification lemma per shared operation: everything it can do. -/

namespace Sys2Proof.Machine

/-! ## Register blocks (spec/44_index_memory.md R205, R206) -/

theorem toNat_regOfNat {k : Nat} (h : k < 16) : (regOfNat k).toNat = k := by
  simp [regOfNat, Nat.mod_eq_of_lt h]

theorem regOfNat_toNat (x : RegIdx) : regOfNat x.toNat = x := by simp [regOfNat]

@[simp] theorem State.length_regsUpTo (s : State) (x : RegIdx) : (s.regsUpTo x).length = x.toNat + 1 := by
  simp [State.regsUpTo]

theorem State.getD_regsUpTo (s : State) (x : RegIdx) {k : Nat} (h : k ≤ x.toNat) :
    (s.regsUpTo x).getD k 0 = s.readV (regOfNat k) := by
  have hk : k < x.toNat + 1 := by omega
  simp [State.regsUpTo, List.getD_eq_getElem?_getD, hk]

theorem State.readV_writeRegsFrom (s : State) (k : Nat) (bs : List Byte) (h : k + bs.length ≤ 16)
    (y : RegIdx) :
    (s.writeRegsFrom k bs).readV y =
      if k ≤ y.toNat ∧ y.toNat < k + bs.length then bs.getD (y.toNat - k) 0 else s.readV y := by
  induction bs generalizing s k with
  | nil => simp only [State.writeRegsFrom, List.length_nil]; rw [if_neg (by omega)]
  | cons b bs ih =>
    simp only [List.length_cons] at h ⊢
    have hk : (regOfNat k).toNat = k := toNat_regOfNat (by omega)
    rw [State.writeRegsFrom, ih _ _ (by omega), State.readV_writeV]
    by_cases hy : regOfNat k = y
    · have : y.toNat = k := by rw [← hy, hk]
      rw [if_neg (by omega), if_pos hy, if_pos (by omega)]
      simp [this]
    · have hne : y.toNat ≠ k := fun e => hy (by rw [← e]; exact regOfNat_toNat y)
      rw [if_neg hy]
      by_cases hr : k + 1 ≤ y.toNat ∧ y.toNat < k + 1 + bs.length
      · rw [if_pos hr, if_pos (by omega)]
        have : y.toNat - k = (y.toNat - (k + 1)) + 1 := by omega
        rw [this, List.getD_cons_succ]
      · rw [if_neg hr, if_neg (by omega)]

@[simp] theorem State.writeRegsFrom_i (s : State) (k : Nat) (bs : List Byte) :
    (s.writeRegsFrom k bs).i = s.i := by
  induction bs generalizing s k with
  | nil => rfl
  | cons b bs ih => simp [State.writeRegsFrom, ih]

@[simp] theorem State.writeRegsFrom_pc (s : State) (k : Nat) (bs : List Byte) :
    (s.writeRegsFrom k bs).pc = s.pc := by
  induction bs generalizing s k with
  | nil => rfl
  | cons b bs ih => simp [State.writeRegsFrom, ih]

@[simp] theorem State.writeRegsFrom_sp (s : State) (k : Nat) (bs : List Byte) :
    (s.writeRegsFrom k bs).sp = s.sp := by
  induction bs generalizing s k with
  | nil => rfl
  | cons b bs ih => simp [State.writeRegsFrom, ih]

@[simp] theorem State.writeRegsFrom_stack (s : State) (k : Nat) (bs : List Byte) :
    (s.writeRegsFrom k bs).stack = s.stack := by
  induction bs generalizing s k with
  | nil => rfl
  | cons b bs ih => simp [State.writeRegsFrom, ih]

@[simp] theorem State.writeRegsFrom_dt (s : State) (k : Nat) (bs : List Byte) :
    (s.writeRegsFrom k bs).dt = s.dt := by
  induction bs generalizing s k with
  | nil => rfl
  | cons b bs ih => simp [State.writeRegsFrom, ih]

@[simp] theorem State.writeRegsFrom_st (s : State) (k : Nat) (bs : List Byte) :
    (s.writeRegsFrom k bs).st = s.st := by
  induction bs generalizing s k with
  | nil => rfl
  | cons b bs ih => simp [State.writeRegsFrom, ih]

@[simp] theorem State.writeRegsFrom_keys (s : State) (k : Nat) (bs : List Byte) :
    (s.writeRegsFrom k bs).keys = s.keys := by
  induction bs generalizing s k with
  | nil => rfl
  | cons b bs ih => simp [State.writeRegsFrom, ih]

@[simp] theorem State.writeRegsFrom_fb (s : State) (k : Nat) (bs : List Byte) :
    (s.writeRegsFrom k bs).fb = s.fb := by
  induction bs generalizing s k with
  | nil => rfl
  | cons b bs ih => simp [State.writeRegsFrom, ih]

@[simp] theorem State.writeRegsFrom_mem (s : State) (k : Nat) (bs : List Byte) :
    (s.writeRegsFrom k bs).mem = s.mem := by
  induction bs generalizing s k with
  | nil => rfl
  | cons b bs ih => simp [State.writeRegsFrom, ih]

@[simp] theorem State.writeRegsFrom_wait (s : State) (k : Nat) (bs : List Byte) :
    (s.writeRegsFrom k bs).wait = s.wait := by
  induction bs generalizing s k with
  | nil => rfl
  | cons b bs ih => simp [State.writeRegsFrom, ih]

@[simp] theorem State.writeRegsFrom_halt (s : State) (k : Nat) (bs : List Byte) :
    (s.writeRegsFrom k bs).halt = s.halt := by
  induction bs generalizing s k with
  | nil => rfl
  | cons b bs ih => simp [State.writeRegsFrom, ih]

@[simp] theorem State.writeRegsFrom_draws (s : State) (k : Nat) (bs : List Byte) :
    (s.writeRegsFrom k bs).draws = s.draws := by
  induction bs generalizing s k with
  | nil => rfl
  | cons b bs ih => simp [State.writeRegsFrom, ih]

/-! ## The call stack (spec/10_state.md R28, R29) -/

theorem State.pushPC_eq_none {s : State} : s.pushPC = none ↔ s.sp.val = 16 := by
  have := s.sp.isLt
  unfold State.pushPC
  split <;> simp <;> omega

/-- A push succeeds below 16: the slot at SP holds PC, SP is one more, every other slot as before. -/
theorem State.pushPC_eq_some {s t : State} (h : s.pushPC = some t) :
    ∃ hs : s.sp.val < 16,
      t = { s with stack := s.stack.set s.sp.val s.pc hs, sp := ⟨s.sp.val + 1, by omega⟩ } := by
  unfold State.pushPC at h
  split at h
  · exact ⟨‹_›, by simpa using h.symm⟩
  · simp at h

theorem State.popAddr_eq_none {s : State} : s.popAddr = none ↔ s.sp.val = 0 := by
  unfold State.popAddr
  split <;> simp <;> omega

/-- A pop succeeds above 0: the top slot's value, and SP one less; the slots keep their values. -/
theorem State.popAddr_eq_some {s t : State} {a : Word} (h : s.popAddr = some (a, t)) :
    ∃ _ : s.sp.val ≠ 0, a = s.stack[s.sp.val - 1]'(by omega) ∧
      t = { s with sp := ⟨s.sp.val - 1, by omega⟩ } := by
  unfold State.popAddr at h
  split at h
  · simp at h
  · simp only [Option.some.injEq, Prod.mk.injEq] at h
    exact ⟨‹_›, h.1.symm, h.2.symm⟩

/-! ## The bound check (spec/20_memory.md R64) -/

theorem State.outOfRange_iff (s : State) (n : Nat) :
    s.outOfRange n = true ↔ 0 < n ∧ Config.maxAddr < s.i.toNat + (n - 1) := by
  unfold State.outOfRange State.indexAddr
  rw [Bool.and_eq_true, decide_eq_true_iff, decide_eq_true_iff]

/-- An I-relative access raises its fault or has its effect, never both. -/
theorem withIndexAccess_cases (a : Access) (w : Word) (n : Nat) (s e : State) :
    (s.outOfRange n = true ∧
      withIndexAccess a w n s e = .next (s.raiseFault (.address a) (some w) (some s.faultAddr))) ∨
    (s.outOfRange n = false ∧ withIndexAccess a w n s e = .next e) := by
  unfold withIndexAccess
  cases h : s.outOfRange n <;> simp

/-! ## The input latch (spec/45_random_input_timers.md R224) -/

theorem State.highestKeyBelow_eq_none {s : State} {n : Nat} :
    s.highestKeyBelow n = none ↔ ∀ k < n, s.keySet k = false := by
  induction n with
  | zero => simp [State.highestKeyBelow]
  | succ n ih =>
    simp only [State.highestKeyBelow]
    constructor
    · intro h k hk
      by_cases hn : s.keySet n = true
      · simp [hn] at h
      · rw [if_neg hn] at h
        rcases Nat.lt_succ_iff_lt_or_eq.1 hk with hk | rfl
        · exact ih.1 h k hk
        · simpa using hn
    · intro h
      rw [if_neg (by simp [h n (by omega)])]
      exact ih.2 fun k hk => h k (by omega)

/-- The highest set key: set, below the bound, and no higher one is set. -/
theorem State.highestKeyBelow_eq_some {s : State} {n k : Nat} :
    s.highestKeyBelow n = some k ↔
      k < n ∧ s.keySet k = true ∧ ∀ j, k < j → j < n → s.keySet j = false := by
  induction n with
  | zero => simp [State.highestKeyBelow]
  | succ n ih =>
    simp only [State.highestKeyBelow]
    by_cases hn : s.keySet n = true
    · rw [if_pos hn]
      constructor
      · intro h
        obtain rfl : n = k := by simpa using h
        exact ⟨by omega, hn, fun j hj hj' => by omega⟩
      · rintro ⟨hk, -, hmax⟩
        by_contra hne
        have hkn : k ≠ n := fun e => hne (by rw [e])
        simp [hmax n (by omega) (by omega)] at hn
    · rw [if_neg hn, ih]
      constructor
      · rintro ⟨hk, hset, hmax⟩
        refine ⟨by omega, hset, fun j hj hj' => ?_⟩
        rcases Nat.lt_succ_iff_lt_or_eq.1 hj' with hj' | rfl
        · exact hmax j hj hj'
        · simpa using hn
      · rintro ⟨hk, hset, hmax⟩
        have : k ≠ n := fun e => hn (e ▸ hset)
        exact ⟨by omega, hset, fun j hj hj' => hmax j hj (by omega)⟩

/-- A key wait, first or resumed: with a key set it completes, with none it only records itself. -/
theorem keyWaitResume_cases (x : RegIdx) (s : State) :
    (∃ k, s.highestKeyBelow 16 = some k ∧
      keyWaitResume x s = .next ((s.writeWait none).writeV x (BitVec.ofNat 8 k)).advance) ∨
    (s.highestKeyBelow 16 = none ∧ keyWaitResume x s = .next (s.writeWait (some x))) := by
  unfold keyWaitResume
  cases h : s.highestKeyBelow 16 with
  | none => exact .inr ⟨rfl, rfl⟩
  | some k => exact .inl ⟨k, rfl, rfl⟩

/-! ## Fetch (spec/40_engine_cycle.md R122) -/

theorem State.fetch_eq_none {s : State} : s.fetch = none ↔ 4094 < s.pc.toNat := by
  unfold State.fetch
  split <;> simp_all

theorem State.fetch_eq_some {s : State} {w : Word} :
    s.fetch = some w ↔ s.pc.toNat ≤ 4094 ∧
      w = wordOfBytes (s.mem.read s.pc.toNat) (s.mem.read (s.pc.toNat + 1)) := by
  unfold State.fetch
  split <;> simp_all [eq_comm]

end Sys2Proof.Machine
end

