-- ==== Sys2Proof/Laws/Step.lean ====
section
/-! SUPPORT. What one step can do, said once (spec/40_engine_cycle.md R121). -/

namespace Sys2Proof.Machine

/-- A step is exactly one of: a halted step, a resumed key wait, a fetch fault, an executed instruction. -/
theorem step_cases (s : State) :
    (∃ r, s.halt = some r ∧ step s = .next s) ∨
    (s.halt = none ∧ ∃ x, s.wait = some x ∧ step s = keyWaitResume x s) ∨
    (s.halt = none ∧ s.wait = none ∧ s.fetch = none ∧ step s = fetchFault s) ∨
    (s.halt = none ∧ s.wait = none ∧ ∃ w, s.fetch = some w ∧ step s = exec (decodeWord w) s) := by
  unfold step haltedStep
  cases hh : s.halt with
  | some r => exact .inl ⟨r, rfl, rfl⟩
  | none =>
    cases hw : s.wait with
    | some x => exact .inr (.inl ⟨rfl, x, rfl, rfl⟩)
    | none =>
      cases hf : s.fetch with
      | none => exact .inr (.inr (.inl ⟨rfl, rfl, rfl, rfl⟩))
      | some w => exact .inr (.inr (.inr ⟨rfl, rfl, w, rfl, rfl⟩))

/-- An I-relative access and a key wait always have a next state. -/
theorem withIndexAccess_next (a : Access) (w : Word) (n : Nat) (s e : State) :
    ∃ t, withIndexAccess a w n s e = .next t := by
  rcases withIndexAccess_cases a w n s e with ⟨-, h⟩ | ⟨-, h⟩ <;> exact ⟨_, h⟩

theorem keyWaitResume_next (x : RegIdx) (s : State) : ∃ t, keyWaitResume x s = .next t := by
  rcases keyWaitResume_cases x s with ⟨k, -, h⟩ | ⟨-, h⟩ <;> exact ⟨_, h⟩

end Sys2Proof.Machine
end

