-- ==== Sys2Proof/Laws/Exec.lean ====
section
/-! SUPPORT. Everything one instruction can do, said once: a fault entry, a key wait entered, or its own
effect. Every rule over all instructions is a case analysis of `exec_cases`. -/

namespace Sys2Proof.Machine

/-- The effect of an instruction that neither faults nor enters a key wait, guards included. -/
def ExecEffect (i : Instr) (s t : State) : Prop :=
  match i with
  | .cls => t = (s.writeFB 0#2048).advance
  | .ret => ∃ a u, s.popAddr = some (a, u) ∧ t = u.jumpTo (a.toNat + 2)
  | .call n => ∃ u, s.pushPC = some u ∧ t = u.jumpTo n.toNat
  | .jp n => t = s.jumpTo n.toNat
  | .jpV0 n => t = s.jumpTo (n.toNat + (s.readV 0#4).toNat)
  | .seImm _ _ | .sneImm _ _ | .seReg _ _ | .sneReg _ _ | .skp _ | .sknp _ => ∃ c, t = s.skipIf c
  | .ldImm x _ | .addImm x _ | .ldReg x _ | .orReg x _ | .andReg x _ | .xorReg x _ | .ldVxDt x =>
    ∃ b, t = (s.writeV x b).advance
  | .addReg x _ | .sub x _ | .shr x _ | .subn x _ | .shl x _ =>
    ∃ b f, t = ((s.writeV x b).writeFlag f).advance
  | .ldI _ | .addIVx _ | .ldFVx _ => ∃ w, t = (s.writeI w).advance
  | .rnd x kk => t = (s.countDraw.writeV x (s.nextDraw &&& kk)).advance
  | .drw x y n => s.outOfRange n.toNat = false ∧
    t = ((s.writeFB (s.drawSprite x y n).1).writeFlag (s.drawSprite x y n).2).advance
  | .ldVxK x => ∃ k, s.highestKeyBelow 16 = some k ∧
    t = ((s.writeWait none).writeV x (BitVec.ofNat 8 k)).advance
  | .ldDtVx x => t = (s.writeDT (s.readV x)).advance
  | .ldStVx x => t = (s.writeST (s.readV x)).advance
  | .ldBVx x => s.outOfRange 3 = false ∧
    t = (s.writeMem (s.mem.writeBlock (s.indexAddr 0) (bcdDigits (s.readV x)))).advance
  | .ldMemVx x => s.outOfRange (x.toNat + 1) = false ∧
    t = (s.writeMem (s.mem.writeBlock (s.indexAddr 0) (s.regsUpTo x))).advance
  | .ldVxMem x => s.outOfRange (x.toNat + 1) = false ∧
    t = (s.writeRegsFrom 0 (s.mem.readBlock (s.indexAddr 0) (x.toNat + 1))).advance
  | .unrec0nnn _ | .unrec5xyn _ _ _ | .unrec8xy8 _ _ | .unrec8xy9 _ _ | .unrec8xyA _ _ | .unrec8xyB _ _
  | .unrec8xyC _ _ | .unrec8xyD _ _ | .unrec8xyF _ _ | .unrec9xyn _ _ _ | .unrecExkk _ _
  | .unrecFxkk _ _ => t = s.advance

/-- The faults an instruction can raise, with the addr of the record. -/
def ExecFault (s : State) (k : FaultKind) (a : Option Nat) : Prop :=
  (k = .stack .overflow ∧ a = none) ∨ (k = .stack .underflow ∧ a = none) ∨
    (k = .address .dataRead ∧ a = some s.faultAddr) ∨ (k = .address .dataWrite ∧ a = some s.faultAddr)

/-- An instruction faults with its own word in the record, or enters a key wait, or has its effect. -/
theorem exec_cases {i : Instr} {s t : State} (h : exec i s = .next t) :
    (∃ k a, t = s.raiseFault k (some (encode i)) a ∧ ExecFault s k a) ∨
    (∃ x, i = .ldVxK x ∧ s.highestKeyBelow 16 = none ∧ t = s.writeWait (some x)) ∨
    ExecEffect i s t := by
  have inj : ∀ {a b : State}, (Host.Outcome.next a : Result) = .next b → b = a := fun h => by simpa using h.symm
  cases i
  case ret =>
    simp only [exec, execRet] at h
    split at h
    · exact .inr (.inr ⟨_, _, ‹_›, inj h⟩)
    · exact .inl ⟨_, _, inj h, by simp [ExecFault]⟩
  case call =>
    simp only [exec, execCall] at h
    split at h
    · exact .inr (.inr ⟨_, ‹_›, inj h⟩)
    · exact .inl ⟨_, _, inj h, by simp [ExecFault]⟩
  case drw =>
    rcases withIndexAccess_cases _ _ _ _ _ with ⟨_, e⟩ | ⟨ho, e⟩
    · exact .inl ⟨_, _, inj (e.symm.trans h), by simp [ExecFault]⟩
    · exact .inr (.inr ⟨ho, inj (e.symm.trans h)⟩)
  case ldBVx =>
    rcases withIndexAccess_cases _ _ _ _ _ with ⟨_, e⟩ | ⟨ho, e⟩
    · exact .inl ⟨_, _, inj (e.symm.trans h), by simp [ExecFault]⟩
    · exact .inr (.inr ⟨ho, inj (e.symm.trans h)⟩)
  case ldMemVx =>
    rcases withIndexAccess_cases _ _ _ _ _ with ⟨_, e⟩ | ⟨ho, e⟩
    · exact .inl ⟨_, _, inj (e.symm.trans h), by simp [ExecFault]⟩
    · exact .inr (.inr ⟨ho, inj (e.symm.trans h)⟩)
  case ldVxMem =>
    rcases withIndexAccess_cases _ _ _ _ _ with ⟨_, e⟩ | ⟨ho, e⟩
    · exact .inl ⟨_, _, inj (e.symm.trans h), by simp [ExecFault]⟩
    · exact .inr (.inr ⟨ho, inj (e.symm.trans h)⟩)
  case ldVxK x =>
    rcases keyWaitResume_cases x s with ⟨k, hk, e⟩ | ⟨hk, e⟩
    · exact .inr (.inr ⟨k, hk, inj (e.symm.trans h)⟩)
    · exact .inr (.inl ⟨x, rfl, hk, inj (e.symm.trans h)⟩)
  all_goals first
    | exact .inr (.inr (inj h))
    | exact .inr (.inr ⟨_, inj h⟩)
    | exact .inr (.inr ⟨_, _, inj h⟩)

/-- An instruction that has its effect leaves Halt alone. -/
theorem ExecEffect.halt_eq {i : Instr} {s t : State} (e : ExecEffect i s t) : t.halt = s.halt := by
  cases i <;> simp only [ExecEffect] at e
  case ret => obtain ⟨a, u, hp, rfl⟩ := e; obtain ⟨_, _, rfl⟩ := State.popAddr_eq_some hp; rfl
  case call => obtain ⟨u, hp, rfl⟩ := e; obtain ⟨_, rfl⟩ := State.pushPC_eq_some hp; rfl
  all_goals first
    | (subst e; simp)
    | (obtain ⟨_, rfl⟩ := e; simp)
    | (obtain ⟨_, _, rfl⟩ := e; simp)

/-- An instruction that has its effect leaves no key wait where there was none. -/
theorem ExecEffect.wait_eq {i : Instr} {s t : State} (e : ExecEffect i s t) (h : s.wait = none) :
    t.wait = none := by
  cases i <;> simp only [ExecEffect] at e
  case ret => obtain ⟨a, u, hp, rfl⟩ := e; obtain ⟨_, _, rfl⟩ := State.popAddr_eq_some hp; exact h
  case call => obtain ⟨u, hp, rfl⟩ := e; obtain ⟨_, rfl⟩ := State.pushPC_eq_some hp; exact h
  all_goals first
    | (subst e; simp [h])
    | (obtain ⟨_, rfl⟩ := e; simp [h])
    | (obtain ⟨_, _, rfl⟩ := e; simp [h])

end Sys2Proof.Machine
end

