-- ==== Sys2Proof/Laws/Memory.lean ====
section
/-! SUPPORT. What the memory operations do: read after write, the glyph ROM, blocks, and the canonical form,
which every operation keeps (spec/20_memory.md R62, R63). -/

namespace Sys2Proof.Machine

/-! ## The list of cells -/

theorem cellsRead_of_lt (d : Byte) (cells : List Host.Cell) (a : Nat) (h : ∀ c ∈ cells, a < c.1) :
    cellsRead d cells a = d := by
  induction cells with
  | nil => rfl
  | cons c rest ih =>
    have hc := h c (by simp)
    simp only [cellsRead]
    rw [if_neg (by omega)]
    exact ih fun c' hc' => h c' (by simp [hc'])

theorem mem_cellsWrite {d : Byte} {a : Nat} {v : Byte} {cells : List Host.Cell} {c : Host.Cell}
    (h : c ∈ cellsWrite d a v cells) : (c = (a, v) ∧ v ≠ d) ∨ c ∈ cells := by
  induction cells with
  | nil => by_cases hv : v = d <;> simp_all [cellsWrite]
  | cons e rest ih =>
    simp only [cellsWrite] at h
    split at h
    · by_cases hv : v = d <;> simp_all
    · split at h
      · by_cases hv : v = d <;> simp_all
        tauto
      · rcases List.mem_cons.1 h with h | h
        · simp [h]
        · rcases ih h with h | h
          · exact .inl h
          · simp [h]

theorem pairwise_cellsWrite (d : Byte) (a : Nat) (v : Byte) {cells : List Host.Cell}
    (h : cells.Pairwise fun c e => c.1 < e.1) :
    (cellsWrite d a v cells).Pairwise fun c e => c.1 < e.1 := by
  induction cells with
  | nil => by_cases hv : v = d <;> simp [cellsWrite, hv]
  | cons e rest ih =>
    obtain ⟨he, hrest⟩ := List.pairwise_cons.1 h
    simp only [cellsWrite]
    split
    · split
      · exact h
      · refine List.pairwise_cons.2 ⟨fun c hc => ?_, h⟩
        rcases List.mem_cons.1 hc with rfl | hc
        · assumption
        · exact lt_trans ‹_› (he c hc)
    · split
      · split
        · exact hrest
        · subst_vars
          exact List.pairwise_cons.2 ⟨he, hrest⟩
      · refine List.pairwise_cons.2 ⟨fun c hc => ?_, ih hrest⟩
        rcases mem_cellsWrite hc with ⟨rfl, -⟩ | hc
        · omega
        · exact he c hc

theorem cellsRead_cellsWrite (d : Byte) (a : Nat) (v : Byte) (b : Nat) {cells : List Host.Cell}
    (h : cells.Pairwise fun c e => c.1 < e.1) :
    cellsRead d (cellsWrite d a v cells) b = if b = a then v else cellsRead d cells b := by
  induction cells with
  | nil => by_cases hv : v = d <;> by_cases hb : b = a <;> simp [cellsWrite, cellsRead, hv, hb]
  | cons e rest ih =>
    obtain ⟨he, hrest⟩ := List.pairwise_cons.1 h
    obtain ⟨e1, e2⟩ := e
    simp only [cellsWrite]
    split
    · rename_i hlt
      split
      · by_cases hb : b = a
        · subst hb
          rw [if_pos rfl, cellsRead_of_lt]
          · simp_all
          · intro c hc
            rcases List.mem_cons.1 hc with rfl | hc
            · exact hlt
            · exact lt_trans hlt (he c hc)
        · simp [hb]
      · simp [cellsRead]
    · split
      · subst_vars
        split
        · by_cases hb : b = e1
          · subst hb
            simp_all [cellsRead_of_lt d rest b fun c hc => he c hc]
          · simp [cellsRead, hb]
        · by_cases hb : b = e1 <;> simp [cellsRead, hb]
      · simp only [cellsRead, ih hrest]
        split
        · rw [if_neg (by omega)]
        · rfl

/-! ## Memory.read and Memory.write -/

@[simp] theorem Memory.write_glyph (m : Memory) (a : Nat) (v : Byte) : (m.write a v).glyph = m.glyph := by
  unfold Memory.write
  split <;> [rfl; split <;> rfl]

theorem Memory.unlisted_congr {m n : Memory} (h : n.glyph = m.glyph) (a : Nat) :
    n.unlisted a = m.unlisted a := by
  simp [Memory.unlisted, h]

/-- Every memory operation keeps the canonical form: a byte write does. -/
theorem Memory.write_wf {m : Memory} (h : m.wf) (a : Nat) (v : Byte) : (m.write a v).wf := by
  unfold Memory.write
  split
  · exact h
  · split
    · exact h
    · refine ⟨pairwise_cellsWrite _ a v h.1, fun c hc => ?_⟩
      rcases mem_cellsWrite hc with ⟨rfl, hv⟩ | hc
      · exact ⟨by simpa using ‹¬ a < _›, by simpa using ‹¬ _ < a›, hv⟩
      · exact h.2 c hc

/-- Read after write: the written byte at its own address if that is writable, every other as before. -/
theorem Memory.read_write {m : Memory} (h : m.wf) (a : Nat) (v : Byte) (b : Nat) :
    (m.write a v).read b =
      if b = a ∧ Config.glyphSize ≤ a ∧ a ≤ Config.maxAddr then v else m.read b := by
  unfold Memory.write
  split
  · rw [if_neg (by omega)]
  · split
    · rw [if_neg (by omega)]
    · unfold Memory.read
      split
      · rw [if_neg (by omega)]
        exact Memory.unlisted_congr rfl b
      · have hu : ∀ n : Memory, n.unlisted b = Config.ramReset := fun n => by
          simp only [Memory.unlisted]; rw [dif_neg ‹_›]
        rw [hu, hu, cellsRead_cellsWrite _ _ _ _ h.1]
        congr 1
        simp only [eq_iff_iff]
        constructor
        · intro hb
          exact ⟨hb, by omega, by omega⟩
        · exact fun hb => hb.1

/-- The glyph ROM reads as the machine's table (spec/20_memory.md R61). -/
theorem Memory.read_glyph (m : Memory) {a : Nat} (h : a < Config.glyphSize) : m.read a = m.glyph[a] := by
  simp only [Memory.read, if_pos h, Memory.unlisted, dif_pos h]

/-! ## Blocks -/

@[simp] theorem Memory.writeBlock_glyph (m : Memory) (a : Nat) (bs : List Byte) :
    (m.writeBlock a bs).glyph = m.glyph := by
  induction bs generalizing m a with
  | nil => rfl
  | cons b bs ih => simp [Memory.writeBlock, ih]

theorem Memory.writeBlock_wf {m : Memory} (h : m.wf) (a : Nat) (bs : List Byte) :
    (m.writeBlock a bs).wf := by
  induction bs generalizing m a with
  | nil => exact h
  | cons b bs ih => exact ih (Memory.write_wf h a b) (a + 1)

/-- Reading after a block write: the block's byte inside the writable part of the block, every other
address as before. -/
theorem Memory.read_writeBlock {m : Memory} (h : m.wf) (a : Nat) (bs : List Byte) (b : Nat) :
    (m.writeBlock a bs).read b =
      if a ≤ b ∧ b < a + bs.length ∧ Config.glyphSize ≤ b ∧ b ≤ Config.maxAddr then bs.getD (b - a) 0
      else m.read b := by
  induction bs generalizing m a with
  | nil => simp only [Memory.writeBlock, List.length_nil]; rw [if_neg (by omega)]
  | cons c bs ih =>
    simp only [Memory.writeBlock, List.length_cons]
    rw [ih (Memory.write_wf h a c), Memory.read_write h]
    by_cases hb : b = a
    · subst hb
      rw [if_neg (by omega)]
      by_cases hw : Config.glyphSize ≤ b ∧ b ≤ Config.maxAddr
      · rw [if_pos ⟨rfl, hw⟩, if_pos (by omega)]
        simp
      · rw [if_neg (by tauto), if_neg (by tauto)]
    · rw [if_neg (c := b = a ∧ _) (by tauto)]
      by_cases hw : a + 1 ≤ b ∧ b < a + 1 + bs.length ∧ Config.glyphSize ≤ b ∧ b ≤ Config.maxAddr
      · rw [if_pos hw, if_pos (by omega)]
        have : b - a = (b - (a + 1)) + 1 := by omega
        rw [this, List.getD_cons_succ]
      · rw [if_neg hw, if_neg (by omega)]

@[simp] theorem Memory.length_readBlock (m : Memory) (a n : Nat) : (m.readBlock a n).length = n := by
  simp [Memory.readBlock]

theorem Memory.getElem_readBlock (m : Memory) (a n k : Nat) (h : k < (m.readBlock a n).length) :
    (m.readBlock a n)[k] = m.read (a + k) := by
  simp [Memory.readBlock]

/-! ## The loader (spec/60_exceptions.md R256) -/

/-- A payload of more than 3584 bytes is rejected with its code, and nothing changes. -/
theorem State.load_oversize (s : State) {bytes : List Byte} (h : Config.maxProgram < bytes.length) :
    s.load bytes = (.rejected .loaderOversize 0x21#8, s) := by
  simp only [State.load, if_pos h, loaderOversize, FaultKind.code]

/-- A payload that fits is written from 0x200 on. -/
theorem State.load_fits (s : State) {bytes : List Byte} (h : bytes.length ≤ Config.maxProgram) :
    s.load bytes = (.ok, s.writeMem (s.mem.writeBlock Config.programBase bytes)) := by
  simp only [State.load, if_neg (Nat.not_lt.2 h)]

/-! ## Reset and the placing of an instruction -/

theorem State.resetWith_mem_wf (g : Vector Byte Config.glyphSize) : (State.resetWith g).mem.wf := by
  simp [State.resetWith, Memory.wf]

theorem State.reset_mem_wf : State.reset.mem.wf := State.resetWith_mem_wf _

theorem Memory.poke_wf {m : Memory} (h : m.wf) (a : Nat) (b : Byte) : (m.poke a b).wf := by
  unfold Memory.poke
  split
  · exact h
  · exact Memory.write_wf h a b

theorem Memory.read_poke {m : Memory} (h : m.wf) {a : Nat} (ha : a ≤ Config.maxAddr) (v : Byte) (b : Nat) :
    (m.poke a v).read b = if b = a then v else m.read b := by
  unfold Memory.poke
  split
  · rename_i hg
    by_cases hb : b < Config.glyphSize
    · rw [Memory.read_glyph _ hb]
      simp only [Vector.getElem_set]
      by_cases hab : a = b
      · simp [hab]
      · rw [if_neg hab, if_neg (Ne.symm hab), Memory.read_glyph _ hb]
    · rw [if_neg (by omega)]
      simp only [Memory.read, if_neg hb, Memory.unlisted, dif_neg hb]
  · rw [Memory.read_write h]
    by_cases hb : b = a
    · rw [if_pos ⟨hb, by omega, ha⟩, if_pos hb]
    · rw [if_neg (by tauto), if_neg hb]

end Sys2Proof.Machine
end

