-- ==== Sys2Proof/Laws/PerInstr.lean ====
section
/-! SUPPORT. Per-instruction law TableBits: an instruction's word carries the fixed bits of its row of
spec/opcode_table.json (match and mask, written here from the table). -/

namespace Sys2Proof.Laws.TableBits

open Sys2Proof

/-- The word of i, under its row's mask, is its row's match. -/
def Statement (i : Instr) : Prop := encode i &&& (tableRow i).1 = (tableRow i).2

theorem and_formatNNN (op a : Nibble) (nnn b : Addr12) :
    formatNNN op nnn &&& formatNNN a b = formatNNN (op &&& a) (nnn &&& b) := by
  apply BitVec.eq_of_getLsbD_eq
  intro k _
  simp only [BitVec.getLsbD_and, getLsbD_formatNNN]
  split <;> rfl

theorem and_formatXKK (op a : Nibble) (x b : RegIdx) (kk c : Byte) :
    formatXKK op x kk &&& formatXKK a b c = formatXKK (op &&& a) (x &&& b) (kk &&& c) := by
  apply BitVec.eq_of_getLsbD_eq
  intro k _
  simp only [BitVec.getLsbD_and, getLsbD_formatXKK]
  split <;> [rfl; split <;> rfl]

theorem and_formatXYN (op a : Nibble) (x b y c : RegIdx) (n d : Nibble) :
    formatXYN op x y n &&& formatXYN a b c d = formatXYN (op &&& a) (x &&& b) (y &&& c) (n &&& d) := by
  apply BitVec.eq_of_getLsbD_eq
  intro k _
  simp only [BitVec.getLsbD_and, getLsbD_formatXYN]
  split <;> [rfl; split <;> [rfl; split <;> rfl]]

theorem and_allOnes4 (a : Nibble) : a &&& 0xF#4 = a := BitVec.and_allOnes

theorem and_allOnes8 (a : Byte) : a &&& 0xFF#8 = a := BitVec.and_allOnes

/-! The masks of the table in the formats they are of. -/

theorem mask_nnn (op : Nibble) (nnn : Addr12) : formatNNN op nnn &&& 0xF000#16 = formatNNN op 0#12 := by
  have h := and_formatNNN op 0xF#4 nnn 0#12
  simpa [show formatNNN 0xF#4 0#12 = 0xF000#16 from rfl, and_allOnes4, and_allOnes8] using h

theorem mask_xkk (op : Nibble) (x : RegIdx) (kk : Byte) :
    formatXKK op x kk &&& 0xF000#16 = formatXKK op 0#4 0#8 := by
  have h := and_formatXKK op 0xF#4 x 0#4 kk 0#8
  simpa [show formatXKK 0xF#4 0#4 0#8 = 0xF000#16 from rfl, and_allOnes4, and_allOnes8] using h

theorem mask_xsel (op : Nibble) (x : RegIdx) (kk : Byte) :
    formatXKK op x kk &&& 0xF0FF#16 = formatXKK op 0#4 kk := by
  have h := and_formatXKK op 0xF#4 x 0#4 kk 0xFF#8
  simpa [show formatXKK 0xF#4 0#4 0xFF#8 = 0xF0FF#16 from rfl, and_allOnes4, and_allOnes8] using h

theorem mask_xyn (op : Nibble) (x y : RegIdx) (n : Nibble) :
    formatXYN op x y n &&& 0xF000#16 = formatXYN op 0#4 0#4 0#4 := by
  have h := and_formatXYN op 0xF#4 x 0#4 y 0#4 n 0#4
  simpa [show formatXYN 0xF#4 0#4 0#4 0#4 = 0xF000#16 from rfl, and_allOnes4, and_allOnes8] using h

theorem mask_xysel (op : Nibble) (x y : RegIdx) (n : Nibble) :
    formatXYN op x y n &&& 0xF00F#16 = formatXYN op 0#4 0#4 n := by
  have h := and_formatXYN op 0xF#4 x 0#4 y 0#4 n 0xF#4
  simpa [show formatXYN 0xF#4 0#4 0#4 0xF#4 = 0xF00F#16 from rfl, and_allOnes4, and_allOnes8] using h

theorem cls : Statement .cls := by simp [Statement, encode, tableRow]
theorem ret : Statement .ret := by simp [Statement, encode, tableRow]
theorem jp (nnn : Addr12) : Statement (.jp nnn) := (mask_nnn _ _).trans rfl
theorem call (nnn : Addr12) : Statement (.call nnn) := (mask_nnn _ _).trans rfl
theorem seImm (x : RegIdx) (kk : Byte) : Statement (.seImm x kk) := (mask_xkk _ _ _).trans rfl
theorem sneImm (x : RegIdx) (kk : Byte) : Statement (.sneImm x kk) := (mask_xkk _ _ _).trans rfl
theorem seReg (x : RegIdx) (y : RegIdx) : Statement (.seReg x y) := (mask_xysel _ _ _ _).trans rfl
theorem ldImm (x : RegIdx) (kk : Byte) : Statement (.ldImm x kk) := (mask_xkk _ _ _).trans rfl
theorem addImm (x : RegIdx) (kk : Byte) : Statement (.addImm x kk) := (mask_xkk _ _ _).trans rfl
theorem ldReg (x : RegIdx) (y : RegIdx) : Statement (.ldReg x y) := (mask_xysel _ _ _ _).trans rfl
theorem orReg (x : RegIdx) (y : RegIdx) : Statement (.orReg x y) := (mask_xysel _ _ _ _).trans rfl
theorem andReg (x : RegIdx) (y : RegIdx) : Statement (.andReg x y) := (mask_xysel _ _ _ _).trans rfl
theorem xorReg (x : RegIdx) (y : RegIdx) : Statement (.xorReg x y) := (mask_xysel _ _ _ _).trans rfl
theorem addReg (x : RegIdx) (y : RegIdx) : Statement (.addReg x y) := (mask_xysel _ _ _ _).trans rfl
theorem sub (x : RegIdx) (y : RegIdx) : Statement (.sub x y) := (mask_xysel _ _ _ _).trans rfl
theorem shr (x : RegIdx) (y : RegIdx) : Statement (.shr x y) := (mask_xysel _ _ _ _).trans rfl
theorem subn (x : RegIdx) (y : RegIdx) : Statement (.subn x y) := (mask_xysel _ _ _ _).trans rfl
theorem shl (x : RegIdx) (y : RegIdx) : Statement (.shl x y) := (mask_xysel _ _ _ _).trans rfl
theorem sneReg (x : RegIdx) (y : RegIdx) : Statement (.sneReg x y) := (mask_xysel _ _ _ _).trans rfl
theorem ldI (nnn : Addr12) : Statement (.ldI nnn) := (mask_nnn _ _).trans rfl
theorem jpV0 (nnn : Addr12) : Statement (.jpV0 nnn) := (mask_nnn _ _).trans rfl
theorem rnd (x : RegIdx) (kk : Byte) : Statement (.rnd x kk) := (mask_xkk _ _ _).trans rfl
theorem drw (x : RegIdx) (y : RegIdx) (n : Nibble) : Statement (.drw x y n) := (mask_xyn _ _ _ _).trans rfl
theorem skp (x : RegIdx) : Statement (.skp x) := (mask_xsel _ _ _).trans rfl
theorem sknp (x : RegIdx) : Statement (.sknp x) := (mask_xsel _ _ _).trans rfl
theorem ldVxDt (x : RegIdx) : Statement (.ldVxDt x) := (mask_xsel _ _ _).trans rfl
theorem ldVxK (x : RegIdx) : Statement (.ldVxK x) := (mask_xsel _ _ _).trans rfl
theorem ldDtVx (x : RegIdx) : Statement (.ldDtVx x) := (mask_xsel _ _ _).trans rfl
theorem ldStVx (x : RegIdx) : Statement (.ldStVx x) := (mask_xsel _ _ _).trans rfl
theorem addIVx (x : RegIdx) : Statement (.addIVx x) := (mask_xsel _ _ _).trans rfl
theorem ldFVx (x : RegIdx) : Statement (.ldFVx x) := (mask_xsel _ _ _).trans rfl
theorem ldBVx (x : RegIdx) : Statement (.ldBVx x) := (mask_xsel _ _ _).trans rfl
theorem ldMemVx (x : RegIdx) : Statement (.ldMemVx x) := (mask_xsel _ _ _).trans rfl
theorem ldVxMem (x : RegIdx) : Statement (.ldVxMem x) := (mask_xsel _ _ _).trans rfl
theorem unrec0nnn (nnn : Addr12) : Statement (.unrec0nnn nnn) := (mask_nnn _ _).trans rfl
theorem unrec5xyn (x : RegIdx) (y : RegIdx) (n : Nibble) : Statement (.unrec5xyn x y n) := (mask_xyn _ _ _ _).trans rfl
theorem unrec8xy8 (x : RegIdx) (y : RegIdx) : Statement (.unrec8xy8 x y) := (mask_xysel _ _ _ _).trans rfl
theorem unrec8xy9 (x : RegIdx) (y : RegIdx) : Statement (.unrec8xy9 x y) := (mask_xysel _ _ _ _).trans rfl
theorem unrec8xyA (x : RegIdx) (y : RegIdx) : Statement (.unrec8xyA x y) := (mask_xysel _ _ _ _).trans rfl
theorem unrec8xyB (x : RegIdx) (y : RegIdx) : Statement (.unrec8xyB x y) := (mask_xysel _ _ _ _).trans rfl
theorem unrec8xyC (x : RegIdx) (y : RegIdx) : Statement (.unrec8xyC x y) := (mask_xysel _ _ _ _).trans rfl
theorem unrec8xyD (x : RegIdx) (y : RegIdx) : Statement (.unrec8xyD x y) := (mask_xysel _ _ _ _).trans rfl
theorem unrec8xyF (x : RegIdx) (y : RegIdx) : Statement (.unrec8xyF x y) := (mask_xysel _ _ _ _).trans rfl
theorem unrec9xyn (x : RegIdx) (y : RegIdx) (n : Nibble) : Statement (.unrec9xyn x y n) := (mask_xyn _ _ _ _).trans rfl
theorem unrecExkk (x : RegIdx) (kk : Byte) : Statement (.unrecExkk x kk) := (mask_xkk _ _ _).trans rfl
theorem unrecFxkk (x : RegIdx) (kk : Byte) : Statement (.unrecFxkk x kk) := (mask_xkk _ _ _).trans rfl

end Sys2Proof.Laws.TableBits
end

