-- ==== Sys2Proof/Tests/Slice0.lean ====
section
/-! SUPPORT. The model's own tests: the well-formedness smoke, the decoding of words written out from
spec/30_encoding.md R98, single steps whose results come from the vectors of spec/95_test_vectors.md (the
vector's id is named), and for every statement with hypotheses a witness that meets them. -/

open Sys2Proof Sys2Proof.Machine Sys2Proof.Claims

namespace Sys2Proof.Tests

set_option Elab.async false

/-! ## Well-formedness refuses ill-formed terms (30_encoding.md R96) -/

theorem test_wf_refuses_0nnn_cls : (Instr.unrec0nnn 0x0E0#12).wellFormed = false := by decide +kernel
theorem test_wf_refuses_0nnn_ret : (Instr.unrec0nnn 0x0EE#12).wellFormed = false := by decide +kernel
theorem test_wf_refuses_5xy0 : (Instr.unrec5xyn 1#4 2#4 0#4).wellFormed = false := by decide +kernel
theorem test_wf_refuses_9xy0 : (Instr.unrec9xyn 1#4 2#4 0#4).wellFormed = false := by decide +kernel
theorem test_wf_refuses_E_selectors :
    ∀ kk ∈ [0x9E#8, 0xA1#8], (Instr.unrecExkk 3#4 kk).wellFormed = false := by decide +kernel
theorem test_wf_refuses_F_selectors :
    ∀ kk ∈ [0x07#8, 0x0A#8, 0x15#8, 0x18#8, 0x1E#8, 0x29#8, 0x33#8, 0x55#8, 0x65#8],
      (Instr.unrecFxkk 3#4 kk).wellFormed = false := by decide +kernel
theorem test_wf_accepts_neighbours :
    (Instr.unrec0nnn 0x0E1#12).wellFormed = true ∧ (Instr.unrec5xyn 1#4 2#4 1#4).wellFormed = true ∧
    (Instr.unrecExkk 3#4 0x9F#8).wellFormed = true ∧ (Instr.unrecFxkk 3#4 0x66#8).wellFormed = true := by
  decide +kernel

/-! ## Decoding: every constructor's word, its nibbles written out (30_encoding.md R92, R94, R98) -/

theorem test_decode_family_0_to_4 :
    decodeWord 0b0000_0000_1110_0000#16 = .cls ∧
    decodeWord 0b0000_0000_1110_1110#16 = .ret ∧
    decodeWord 0b0001_0010_0011_0100#16 = .jp 0x234#12 ∧
    decodeWord 0b0010_0011_0000_0000#16 = .call 0x300#12 ∧
    decodeWord 0b0011_0011_0100_0010#16 = .seImm 3#4 0x42#8 ∧
    decodeWord 0b0100_0011_0100_0001#16 = .sneImm 3#4 0x41#8 := by decide +kernel
theorem test_decode_family_5_to_8_low :
    decodeWord 0b0101_0001_0010_0000#16 = .seReg 1#4 2#4 ∧
    decodeWord 0b0110_1010_0010_1011#16 = .ldImm 0xA#4 0x2B#8 ∧
    decodeWord 0b0111_0001_0000_0010#16 = .addImm 1#4 0x02#8 ∧
    decodeWord 0b1000_0001_0010_0000#16 = .ldReg 1#4 2#4 ∧
    decodeWord 0b1000_0001_0010_0001#16 = .orReg 1#4 2#4 ∧
    decodeWord 0b1000_0001_0010_0010#16 = .andReg 1#4 2#4 ∧
    decodeWord 0b1000_0001_0010_0011#16 = .xorReg 1#4 2#4 := by decide +kernel
theorem test_decode_family_8_high_9 :
    decodeWord 0b1000_0001_0010_0100#16 = .addReg 1#4 2#4 ∧
    decodeWord 0b1000_0001_0010_0101#16 = .sub 1#4 2#4 ∧
    decodeWord 0b1000_0001_0010_0110#16 = .shr 1#4 2#4 ∧
    decodeWord 0b1000_0001_0010_0111#16 = .subn 1#4 2#4 ∧
    decodeWord 0b1000_0001_0010_1110#16 = .shl 1#4 2#4 ∧
    decodeWord 0b1001_0001_0010_0000#16 = .sneReg 1#4 2#4 := by decide +kernel
theorem test_decode_family_A_to_E :
    decodeWord 0b1010_0010_1111_0000#16 = .ldI 0x2F0#12 ∧
    decodeWord 0b1011_0011_0000_0000#16 = .jpV0 0x300#12 ∧
    decodeWord 0b1100_0011_0000_1111#16 = .rnd 3#4 0x0F#8 ∧
    decodeWord 0b1101_0001_0010_1111#16 = .drw 1#4 2#4 15#4 ∧
    decodeWord 0b1110_0001_1001_1110#16 = .skp 1#4 ∧
    decodeWord 0b1110_0001_1010_0001#16 = .sknp 1#4 := by decide +kernel
theorem test_decode_family_F :
    decodeWord 0b1111_0100_0000_0111#16 = .ldVxDt 4#4 ∧
    decodeWord 0b1111_0010_0000_1010#16 = .ldVxK 2#4 ∧
    decodeWord 0b1111_0000_0001_0101#16 = .ldDtVx 0#4 ∧
    decodeWord 0b1111_0000_0001_1000#16 = .ldStVx 0#4 ∧
    decodeWord 0b1111_0101_0001_1110#16 = .addIVx 5#4 ∧
    decodeWord 0b1111_0010_0010_1001#16 = .ldFVx 2#4 ∧
    decodeWord 0b1111_0011_0011_0011#16 = .ldBVx 3#4 ∧
    decodeWord 0b1111_0011_0101_0101#16 = .ldMemVx 3#4 ∧
    decodeWord 0b1111_0010_0110_0101#16 = .ldVxMem 2#4 := by decide +kernel
theorem test_decode_unrecognized_0_5_8 :
    decodeWord 0b0000_0001_0010_0011#16 = .unrec0nnn 0x123#12 ∧
    decodeWord 0b0101_0001_0010_0011#16 = .unrec5xyn 1#4 2#4 3#4 ∧
    decodeWord 0b1000_0001_0010_1000#16 = .unrec8xy8 1#4 2#4 ∧
    decodeWord 0b1000_0001_0010_1001#16 = .unrec8xy9 1#4 2#4 ∧
    decodeWord 0b1000_0001_0010_1010#16 = .unrec8xyA 1#4 2#4 ∧
    decodeWord 0b1000_0001_0010_1011#16 = .unrec8xyB 1#4 2#4 ∧
    decodeWord 0b1000_0001_0010_1100#16 = .unrec8xyC 1#4 2#4 ∧
    decodeWord 0b1000_0001_0010_1101#16 = .unrec8xyD 1#4 2#4 ∧
    decodeWord 0b1000_0001_0010_1111#16 = .unrec8xyF 1#4 2#4 := by decide +kernel
theorem test_decode_unrecognized_9_E_F :
    decodeWord 0b1001_0001_0010_0001#16 = .unrec9xyn 1#4 2#4 1#4 ∧
    decodeWord 0b1110_0001_1001_1111#16 = .unrecExkk 1#4 0x9F#8 ∧
    decodeWord 0b1111_0001_0110_0110#16 = .unrecFxkk 1#4 0x66#8 := by decide +kernel

/-- Bytes in memory order, first byte in bits 15-8; fewer than two are refused by name (20_memory.md R65). -/
theorem test_decode_bytes :
    decodeBytes [0x12#8, 0x34#8, 0x56#8] = .ok (.jp 0x234#12, [0x56#8]) ∧
    decodeBytes [0x12#8] = .error .truncated ∧ decodeBytes [] = .error .truncated := by decide +kernel

theorem test_decodeTableWord :
    decodeTableWord 16 0xD12F = some (.drw 1#4 2#4 15#4) ∧ decodeTableWord 16 0x00EE = some .ret := by decide +kernel

/-! ## Single steps -/

/-- A fault record as the vectors write it: kind, code, pc, opcode, addr. -/
def record (kind : FaultKind) (code : Byte) (pc : Word) (opcode : Option Word) (addr : Option Nat) :
    FaultRecord := ⟨kind, code, pc, opcode, addr⟩

/-- The next state, if the outcome is one. -/
def nextOf : Result → Option State
  | .next t => some t
  | .fault _ => none
  | .refused _ => none

theorem nextOf_eq_some {o : Result} {t : State} (h : nextOf o = some t) : o = .next t := by
  cases o <;> simp_all [nextOf]

/-- The state after one step on a word placed where the step fetches. -/
def run (s : State) (w : Nat) : State := (nextOf (step (s.withFetchWord 16 w))).getD s

/-- The reset state with two registers set. -/
def regs (x : RegIdx) (a : Byte) (y : RegIdx) (b : Byte) : State := (State.reset.writeV x a).writeV y b

/-- The reset state with I set and bytes in memory from I on. -/
def indexed (i : Word) (bytes : List Byte) : State :=
  (State.reset.writeI i).writeMem (State.reset.mem.writeBlock i.toNat bytes)

/-- The reset state with SP and one stack slot set. -/
def stacked (sp : Fin 17) (k : Fin 16) (a : Word) : State :=
  { State.reset with sp := sp, stack := State.reset.stack.set k.val a }

/-- The reset state with the listed keys pressed. -/
def pressed (ks : List (Fin 16)) : State :=
  State.reset.refreshKeys (Vector.ofFn fun k => ks.contains k)

/-- 70_reset_and_hazards.md R282: a step of the reset state runs the word 0x0000, unrecognized. -/
theorem test_reset_step : nextOf (step State.reset) = some State.reset.advance := by decide +kernel

/-- T-DS-1. -/
theorem test_cls : let t := run (State.reset.writeFB (1#2048 ||| BitVec.twoPow 2048 2047)) 0x00E0
    t.fb = 0#2048 ∧ t.pc = 0x202#16 := by decide +kernel
/-- T-DS-4: per-coordinate wrap. -/
theorem test_drw_wraps : let t := run ((indexed 0x300#16 [0xFF#8]).writeV 1#4 60#8) 0xD121
    t.fb = 0xF00000000000000F#2048 ∧ t.readV 0xF#4 = 0#8 := by decide +kernel
/-- T-DS-13: the collision of row 0 stays set through row 1. -/
theorem test_drw_collides : let t := run ((indexed 0x300#16 [0x80#8, 0x80#8]).writeFB 1#2048) 0xD012
    t.fb = BitVec.twoPow 2048 64 ∧ t.readV 0xF#4 = 1#8 := by decide +kernel
/-- T-CF-7. -/
theorem test_ret : let t := run (stacked 1 0 0x200#16) 0x00EE
    t.sp = 0 ∧ t.pc = 0x202#16 ∧ t.stack[0] = 0x200#16 := by decide +kernel
/-- T-CF-8. -/
theorem test_ret_underflow : (run (State.reset.jumpTo 0x300) 0x00EE).halt =
    some (record (.stack .underflow) 0x12#8 0x300#16 (some 0x00EE#16) none) := by decide +kernel
/-- T-CF-1. -/
theorem test_jp : (run State.reset 0x1234).pc = 0x234#16 := by decide +kernel
/-- T-CF-5: the sixteenth nested CALL. -/
theorem test_call : let t := run ((stacked 15 0 0#16).jumpTo 0x400) 0x2300
    t.stack[15] = 0x400#16 ∧ t.sp = 16 ∧ t.pc = 0x300#16 := by decide +kernel
/-- T-CF-6. -/
theorem test_call_overflow : let t := run ((stacked 16 0 0#16).jumpTo 0x400) 0x2300
    t.pc = 0x400#16 ∧ t.halt = some (record (.stack .overflow) 0x11#8 0x400#16 (some 0x2300#16) none) := by decide +kernel
/-- T-CF-10, T-CF-11. -/
theorem test_se_imm : (run (regs 3#4 0x42#8 0#4 0#8) 0x3342).pc = 0x204#16 ∧
    (run (regs 3#4 0x42#8 0#4 0#8) 0x3343).pc = 0x202#16 := by decide +kernel
/-- T-CF-12, T-CF-13. -/
theorem test_sne_imm : (run (regs 3#4 0x42#8 0#4 0#8) 0x4342).pc = 0x202#16 ∧
    (run (regs 3#4 0x42#8 0#4 0#8) 0x4343).pc = 0x204#16 := by decide +kernel
/-- T-CF-14, T-CF-15. -/
theorem test_se_reg : (run (regs 1#4 7#8 2#4 7#8) 0x5120).pc = 0x204#16 ∧
    (run (regs 1#4 7#8 2#4 8#8) 0x5120).pc = 0x202#16 := by decide +kernel
/-- T-CF-17, T-CF-18. -/
theorem test_sne_reg : (run (regs 1#4 7#8 2#4 8#8) 0x9120).pc = 0x204#16 ∧
    (run (regs 1#4 7#8 2#4 7#8) 0x9120).pc = 0x202#16 := by decide +kernel
/-- T-CF-23, T-CF-24. -/
theorem test_jp_v0 : (run (regs 0#4 0xFF#8 1#4 0#8) 0xBFFF).pc = 0x10FE#16 ∧
    (run (regs 0#4 0#8 5#4 0x20#8) 0xB500).pc = 0x500#16 := by decide +kernel
/-- T-AL-1. -/
theorem test_ld_imm : (run State.reset 0x6AFF).readV 0xA#4 = 0xFF#8 := by decide +kernel
/-- T-AL-2: no flag. -/
theorem test_add_imm : let t := run (regs 1#4 0xFF#8 0xF#4 0x33#8) 0x7101
    t.readV 1#4 = 0#8 ∧ t.readV 0xF#4 = 0x33#8 := by decide +kernel
/-- T-AL-4. -/
theorem test_ld_reg : let t := run (regs 2#4 0x5A#8 1#4 0#8) 0x8120
    t.readV 1#4 = 0x5A#8 ∧ t.readV 2#4 = 0x5A#8 := by decide +kernel
/-- T-AL-5: VF kept. -/
theorem test_or : let t := run ((regs 1#4 0xF0#8 2#4 0x0F#8).writeV 0xF#4 0x77#8) 0x8121
    t.readV 1#4 = 0xFF#8 ∧ t.readV 0xF#4 = 0x77#8 := by decide +kernel
/-- T-AL-6. -/
theorem test_and : (run (regs 1#4 0xF0#8 2#4 0x3C#8) 0x8122).readV 1#4 = 0x30#8 := by decide +kernel
/-- T-AL-7. -/
theorem test_xor : (run (regs 1#4 0xF0#8 2#4 0x3C#8) 0x8123).readV 1#4 = 0xCC#8 := by decide +kernel
/-- L1.1. -/
theorem test_add : let t := run (regs 1#4 0xFF#8 2#4 0xFF#8) 0x8124
    t.readV 1#4 = 0xFE#8 ∧ t.readV 0xF#4 = 1#8 := by decide +kernel
/-- T-AL-12: x = 0xF, the sum is lost. -/
theorem test_add_vf : (run (regs 0xF#4 0x10#8 1#4 1#8) 0x8F14).readV 0xF#4 = 0#8 := by decide +kernel
/-- L1.2: strict, so equal operands leave VF = 0. -/
theorem test_sub_equal : let t := run (regs 1#4 5#8 2#4 5#8) 0x8125
    t.readV 1#4 = 0#8 ∧ t.readV 0xF#4 = 0#8 := by decide +kernel
/-- L1.2. -/
theorem test_sub_wraps : let t := run (regs 1#4 0#8 2#4 0xFF#8) 0x8125
    t.readV 1#4 = 1#8 ∧ t.readV 0xF#4 = 0#8 := by decide +kernel
/-- T-AL-20: Vy ignored. -/
theorem test_shr : let t := run (regs 1#4 4#8 2#4 0xFF#8) 0x8126
    t.readV 1#4 = 2#8 ∧ t.readV 0xF#4 = 0#8 := by decide +kernel
/-- T-AL-18. -/
theorem test_subn : let t := run (regs 1#4 6#8 2#4 5#8) 0x8127
    t.readV 1#4 = 0xFF#8 ∧ t.readV 0xF#4 = 0#8 := by decide +kernel
/-- L1.3. -/
theorem test_shl : let t := run (regs 1#4 0xFF#8 2#4 0#8) 0x810E
    t.readV 1#4 = 0xFE#8 ∧ t.readV 0xF#4 = 1#8 := by decide +kernel
/-- T-IM-2. -/
theorem test_ld_i : (run State.reset 0xAFFF).i = 0x0FFF#16 := by decide +kernel
/-- T-IM-4, T-IM-3. -/
theorem test_add_i : (run ((regs 1#4 1#8 0#4 0#8).writeI 0xFFFF#16) 0xF11E).i = 0#16 ∧
    (run ((regs 1#4 1#8 0#4 0#8).writeI 0x0FFF#16) 0xF11E).i = 0x1000#16 := by decide +kernel
/-- T-IM-7: the low nibble only. -/
theorem test_ld_f : (run (regs 2#4 0x3A#8 0#4 0#8) 0xF229).i = 0x32#16 := by decide +kernel
/-- T-IM-17: digits aimed at the glyph ROM are discarded, the third is stored. -/
theorem test_ld_b_glyph : let t := run ((regs 1#4 0xFF#8 0#4 0#8).writeI 0x4E#16) 0xF133
    t.mem.read 0x4E = 0x80#8 ∧ t.mem.read 0x4F = 0x80#8 ∧ t.mem.read 0x50 = 5#8 ∧ t.halt = none := by decide +kernel
/-- T-IM-16. -/
theorem test_ld_b_fault : (run (State.reset.writeI 0x1234#16) 0xF133).halt =
    some (record (.address .dataWrite) 0x03#8 0x200#16 (some 0xF133#16) (some 0x1234)) := by decide +kernel
/-- T-IM-18. -/
theorem test_store_block : let t := run ((regs 0#4 0xAA#8 1#4 0xBB#8).writeI 0x300#16) 0xF055
    t.mem.read 0x300 = 0xAA#8 ∧ t.mem.read 0x301 = 0#8 ∧ t.i = 0x300#16 := by decide +kernel
/-- T-IM-22. -/
theorem test_load_block : let t := run ((indexed 0x300#16 [0x10#8, 0x20#8, 0x30#8]).writeV 3#4 0x99#8) 0xF265
    t.readV 0#4 = 0x10#8 ∧ t.readV 2#4 = 0x30#8 ∧ t.readV 3#4 = 0x99#8 ∧ t.i = 0x300#16 := by decide +kernel
/-- T-IM-25. -/
theorem test_load_block_fault : let t := run (State.reset.writeI 0xFFF#16) 0xF165
    t.readV 0#4 = 0#8 ∧ t.halt = some (record (.address .dataRead) 0x02#8 0x200#16 (some 0xF165#16) (some 0x1000)) := by decide +kernel
/-- T-RT-2: a zero mask, whatever the draw. -/
theorem test_rnd_zero_mask : (match exec (.rnd 3#4 0x00#8) State.reset with
    | .next t => t.readV 3#4 = 0#8
    | .fault _ => False
    | .refused _ => False) := by
  simp [exec, execRnd, State.readV, State.writeV, State.advance, State.countDraw]
/-- T-RT-5, T-RT-7. -/
theorem test_skp : (run ((pressed [5]).writeV 1#4 5#8) 0xE19E).pc = 0x204#16 ∧
    (run ((pressed [0]).writeV 1#4 0x10#8) 0xE19E).pc = 0x202#16 := by decide +kernel
/-- T-RT-9, T-RT-10. -/
theorem test_sknp : (run ((pressed [5]).writeV 1#4 5#8) 0xE1A1).pc = 0x202#16 ∧
    (run ((pressed [0]).writeV 1#4 0x10#8) 0xE1A1).pc = 0x204#16 := by decide +kernel
/-- T-RT-11. -/
theorem test_ld_vx_dt : (run (State.reset.writeDT 0x3C#8) 0xF407).readV 4#4 = 0x3C#8 := by decide +kernel
/-- T-RT-12: the highest key. -/
theorem test_ld_vx_k : let t := run (pressed [3, 9]) 0xF20A
    t.readV 2#4 = 9#8 ∧ t.pc = 0x202#16 ∧ t.wait = none ∧ t.stepResult = .executed := by decide +kernel
/-- T-RT-13. -/
theorem test_ld_vx_k_waits : let t := run State.reset 0xF20A
    t.wait = some 2#4 ∧ t.pc = 0x200#16 ∧ t.stepResult = .waitingForInput := by decide +kernel
/-- T-RT-18. -/
theorem test_ld_dt_vx : (run (regs 0#4 0x3C#8 1#4 0#8) 0xF015).dt = 0x3C#8 := by decide +kernel
/-- T-RT-19. -/
theorem test_ld_st_vx : (run (regs 0#4 0x0A#8 1#4 0#8) 0xF018).st = 0x0A#8 := by decide +kernel
/-- 40_engine_cycle.md R126's example, and one word of each other unrecognized class. -/
theorem test_unrecognized : ∀ w ∈ [0x8008, 0x0000, 0x0FFF, 0x5001, 0x8009, 0x800A, 0x800B, 0x800C, 0x800D,
    0x800F, 0x9001, 0xE000, 0xF000], run State.reset w = (State.reset.withFetchWord 16 w).advance := by decide +kernel
/-- T-CF-3: the fetch after a jump to 0xFFF faults. -/
theorem test_fetch_fault : nextOf (step (State.reset.jumpTo 0xFFF)) = some { State.reset.jumpTo 0xFFF with
    halt := some (record (.address .fetch) 0x01#8 0xFFF#16 none (some 0xFFF)) } := by decide +kernel

/-! ## Host operations -/

/-- T-RT-21, T-RT-22. -/
theorem test_tick : let s := (State.reset.writeDT 1#8).writeST 5#8
    s.tick.dt = 0#8 ∧ s.tick.st = 4#8 ∧ s.tick.tick.dt = 0#8 := by decide +kernel
/-- T-RT-25: stale entries are cleared. -/
theorem test_refresh : ((pressed [4]).refreshKeys (Vector.replicate 16 false)).keys[4] = false := by decide +kernel
/-- T-RT-26 on two bytes; T-RT-28. -/
theorem test_load : (State.reset.load [0x12#8, 0x34#8]).2.mem.read 0x201 = 0x34#8 ∧
    State.reset.load [] = (.ok, State.reset) := by decide +kernel
/-- T-RT-27, L1.8: one byte too long, rejected with code 0x21 and no change. -/
theorem test_load_oversize :
    State.reset.load (List.replicate 3585 0xFF#8) = (.rejected .loaderOversize 0x21#8, State.reset) := by
  decide +kernel
/-- T-RT-16: reset ends a key wait. -/
theorem test_host_reset : (run State.reset 0xF20A).hostReset = State.reset := by decide +kernel

/-! ## Placing an instruction -/

/-- withFetchWord from reset: the word stands at 0x200, and nothing else changes. -/
theorem test_withFetchWord : let s := State.reset.withFetchWord 16 0x6AFF
    s.fetch = some 0x6AFF#16 ∧ s = { State.reset with mem := s.mem } := by decide +kernel

/-! ## Witnesses: concrete states and operands that meet a statement's hypotheses -/

theorem witness_DecodeEncodeRoundTrip :
    (Instr.drw 0xF#4 0#4 0xF#4).wellFormed = true ∧ (Instr.unrecFxkk 0xF#4 0xFF#8).wellFormed = true ∧
    (Instr.unrec0nnn 0xFFF#12).wellFormed = true := by decide +kernel

theorem witness_DecodeFollowsOpcodeTable :
    (Instr.shr 1#4 2#4).isUnrecognized = false ∧
    0x8FF6#16 &&& (tableRow (Instr.shr 1#4 2#4)).1 = (tableRow (Instr.shr 1#4 2#4)).2 := by decide +kernel

/-- At the last fetchable address, 4094. -/
theorem witness_StepRunsDecodedInstruction : ∃ s : State, ∃ i : Instr, s.halt = none ∧ s.wait = none ∧
    s.pc.toNat = 4094 ∧ decodeBytes [s.mem.read s.pc.toNat, s.mem.read (s.pc.toNat + 1)] = .ok (i, []) :=
  ⟨(State.reset.jumpTo 0xFFE).withFetchWord 16 0xD125, .drw 1#4 2#4 5#4, by decide +kernel⟩

theorem witness_FetchIsBigEndian : (State.reset.jumpTo 0xFFE).pc.toNat ≤ 4094 ∧
    State.reset.pc.toNat ≤ 4094 := by decide +kernel

/-- At the first address no fetch is allowed at, 4095. -/
theorem witness_FetchBeyondMemoryFaults : let s := State.reset.jumpTo 0xFFF
    s.halt = none ∧ s.wait = none ∧ 4094 < s.pc.toNat := by decide +kernel

theorem witness_HaltedStepChangesNothing : ∃ r, (run State.reset 0x00EE).halt = some r ∧
    Event.step ≠ .host .reset ∧ Event.host .tick ≠ .host .reset := by
  exact ⟨_, rfl, by decide +kernel⟩

theorem witness_WaitingStepResumesKeyWait_noKey : let s := run State.reset 0xF20A
    s.halt = none ∧ s.wait = some 2#4 ∧ ∀ k : Fin 16, s.keys[k] = false := by decide +kernel

theorem witness_WaitingStepResumesKeyWait_key :
    let s := (run State.reset 0xFF0A).refreshKeys (pressed [0, 15]).keys
    s.halt = none ∧ s.wait = some 0xF#4 ∧ s.keys[(15 : Fin 16)] = true ∧
      ∀ j : Fin 16, 15 < j → s.keys[j] = false := by decide +kernel

theorem witness_WaitingStepResumesKeyWait_lowKey :
    let s := (run State.reset 0xF00A).refreshKeys (pressed [0]).keys
    s.halt = none ∧ s.wait = some 0#4 ∧ s.keys[(0 : Fin 16)] = true ∧
      ∀ j : Fin 16, 0 < j → s.keys[j] = false := by decide +kernel

theorem witness_WaitingResultChangesOnlyWait : ∃ s t : State, step s = .next t ∧
    t.stepResult = .waitingForInput ∧ s.wait = none :=
  ⟨State.reset.withFetchWord 16 0xF20A, run State.reset 0xF20A, nextOf_eq_some (by decide +kernel), by decide +kernel⟩

theorem witness_FaultsArePreciseAndRecorded_fetch : ∃ s t : State, ∃ r, s.halt = none ∧ step s = .next t ∧
    t.halt = some r ∧ r.kind = .address .fetch :=
  ⟨State.reset.jumpTo 0xFFF, _, _, by decide +kernel, rfl, rfl, by decide +kernel⟩

theorem witness_FaultsArePreciseAndRecorded_data : ∃ s t : State, ∃ r, s.halt = none ∧ step s = .next t ∧
    t.halt = some r ∧ r.kind = .address .dataWrite :=
  ⟨(State.reset.writeI 0xFFE#16).withFetchWord 16 0xF133, run (State.reset.writeI 0xFFE#16) 0xF133,
    (record (.address .dataWrite) 0x03#8 0x200#16 (some 0xF133#16) (some 0x1000)),
    by decide +kernel, nextOf_eq_some (by decide +kernel), by decide +kernel, rfl⟩

/-- No row; and the last byte of memory. -/
theorem witness_DrwXorsTheSprite : SpriteInRange (State.reset.writeI 0xFFFF#16) 0#4 ∧
    SpriteInRange (State.reset.writeI 0xFFF#16) 1#4 ∧ SpriteInRange (State.reset.writeI 0xFF1#16) 15#4 :=
  ⟨.inl rfl, .inr (by decide +kernel), .inr (by decide +kernel)⟩

theorem witness_DrwTwiceRestoresTheFramebuffer : let s := indexed 0xFFF#16 [0x80#8]
    SpriteInRange s 1#4 ∧ ∃ t, exec (.drw 0#4 1#4 1#4) s = .next t ∧ t.readV 0#4 = s.readV 0#4 ∧
      t.readV 1#4 = s.readV 1#4 ∧ t.readV 0xF#4 = 0#8 :=
  ⟨.inr (by decide +kernel), _, rfl, by decide +kernel⟩

theorem witness_CallPushesOrOverflows_push : (0 : Fin 16).val = State.reset.sp.val ∧
    (15 : Fin 16).val = (stacked 15 0 0#16).sp.val := by decide +kernel

theorem witness_CallPushesOrOverflows_overflow : (stacked 16 0 0#16).sp.val = 16 := by decide +kernel

theorem witness_RetPopsOrUnderflows_pop : (0 : Fin 16).val + 1 = (stacked 1 0 0x200#16).sp.val ∧
    (15 : Fin 16).val + 1 = (stacked 16 0 0#16).sp.val := by decide +kernel

theorem witness_RetPopsOrUnderflows_underflow : State.reset.sp.val = 0 := by decide +kernel

theorem witness_RegisterSkips : (1#4 : Nibble) ≠ 0#4 ∧ (0xF#4 : Nibble) ≠ 0#4 := by decide +kernel

/-- The deepest call that succeeds, with a body that calls nothing; and a body with a balanced CALL and RET. -/
theorem witness_CallReturnLaw :
    (∃ t u, (stacked 15 0 0#16).sp.val < 16 ∧ exec (.call 0x300#12) (stacked 15 0 0#16) = .next t ∧
      RunsAbove t.sp.val [.ldImm 1#4 7#8] t u ∧ u.sp = t.sp) ∧
    (∃ t u, State.reset.sp.val < 16 ∧ exec (.call 0x300#12) State.reset = .next t ∧
      RunsAbove t.sp.val [.call 0x400#12, .ret] t u ∧ u.sp = t.sp) :=
  ⟨⟨_, _, by decide +kernel, rfl, ⟨_, rfl, by decide +kernel, by decide +kernel, rfl⟩, by decide +kernel⟩,
   ⟨_, _, by decide +kernel, rfl, ⟨_, rfl, by decide +kernel, by decide +kernel, ⟨_, rfl, by decide +kernel, by decide +kernel, rfl⟩⟩, by decide +kernel⟩⟩

theorem witness_AddWithCarryOut : (0xE#4 : RegIdx) ≠ 0xF#4 := by decide +kernel
theorem witness_SubtractionsWithStrictFlag : (0x0#4 : RegIdx) ≠ 0xF#4 := by decide +kernel
theorem witness_ShiftsByOne : (0x1#4 : RegIdx) ≠ 0xF#4 := by decide +kernel

theorem witness_FlagWritersAndMeanings_drw : SpriteInRange (State.reset.writeI 0xFFE#16) 2#4 :=
  .inr (by decide +kernel)

theorem witness_FlagWritersAndMeanings_others : ¬ IsFlagWriter (.addImm 1#4 0xFF#8) ∧
    0xF#4 ∉ writesV (.addImm 1#4 0xFF#8) ∧ ∃ t, exec (.addImm 1#4 0xFF#8) State.reset = .next t :=
  ⟨by simp [IsFlagWriter], by decide +kernel, _, rfl⟩

/-- The last three bytes of memory; then one byte below the first writable one. -/
theorem witness_LdBStoresDecimalDigits : let s := State.reset.writeI 0xFFD#16
    s.mem.wf ∧ s.i.toNat + 2 ≤ 0xFFF ∧ 0x50 ≤ s.indexAddr 0 := by decide +kernel

theorem witness_LdBStoresDecimalDigits_glyph : let s := State.reset.writeI 0x4F#16
    s.mem.wf ∧ s.i.toNat + 2 ≤ 0xFFF ∧ 0x50 ≤ s.indexAddr 1 ∧ 0x50 ≤ s.indexAddr 2 := by decide +kernel

theorem witness_StoreRegisterBlock : let s := State.reset.writeI 0xFF0#16
    s.mem.wf ∧ s.i.toNat + (0xF#4 : RegIdx).toNat ≤ 0xFFF ∧ (0xF#4 : RegIdx) ≤ 0xF#4 ∧
      0x50 ≤ s.indexAddr (0xF#4 : RegIdx).toNat := by decide +kernel

theorem witness_StoreRegisterBlock_glyph : let s := State.reset.writeI 0x4F#16
    s.mem.wf ∧ s.i.toNat + (1#4 : RegIdx).toNat ≤ 0xFFF ∧ (1#4 : RegIdx) ≤ 1#4 ∧
      0x50 ≤ s.indexAddr (1#4 : RegIdx).toNat := by decide +kernel

theorem witness_LoadRegisterBlock : (State.reset.writeI 0xFF0#16).i.toNat + (0xF#4 : RegIdx).toNat ≤ 0xFFF ∧
    (State.reset.writeI 0xFFF#16).i.toNat + (0#4 : RegIdx).toNat ≤ 0xFFF ∧ (0#4 : RegIdx) ≤ 0#4 ∧
    (0#4 : RegIdx) < 1#4 := by decide +kernel

theorem witness_IndexAccessOutsideMemoryFaults_drw : 0 < (2#4 : Nibble).toNat ∧
    0xFFF < (State.reset.writeI 0xFFF#16).i.toNat + (2#4 : Nibble).toNat - 1 := by decide +kernel

theorem witness_IndexAccessOutsideMemoryFaults_ldB : 0xFFF < (State.reset.writeI 0xFFE#16).i.toNat + 2 := by
  decide +kernel

theorem witness_IndexAccessOutsideMemoryFaults_block :
    0xFFF < (State.reset.writeI 0xFF1#16).i.toNat + (0xF#4 : RegIdx).toNat ∧
    0xFFF < (State.reset.writeI 0x1000#16).i.toNat + (0#4 : RegIdx).toNat := by decide +kernel

theorem witness_StoreThenLoadRestoresRegisters : let s := State.reset.writeI 0x50#16
    s.mem.wf ∧ 0x50 ≤ s.i.toNat ∧ s.i.toNat + (0xF#4 : RegIdx).toNat ≤ 0xFFF := by decide +kernel

theorem witness_StoreThenLoadRestoresRegisters_top : let s := State.reset.writeI 0xFF0#16
    s.mem.wf ∧ 0x50 ≤ s.i.toNat ∧ s.i.toNat + (0xF#4 : RegIdx).toNat ≤ 0xFFF := by decide +kernel

theorem witness_StoredCodeIsFetched : let s := State.reset.writeI 0x4F#16
    s.mem.wf ∧ 0x50 ≤ s.i.toNat + (1#4 : RegIdx).toNat ∧ s.i.toNat + (2#4 : RegIdx).toNat ≤ 0xFFF ∧
      (1#4 : RegIdx).toNat + 1 ≤ (2#4 : RegIdx).toNat := by decide +kernel

theorem witness_FaultsArePreciseAndRecorded_read : ∃ s t : State, ∃ r, s.halt = none ∧ step s = .next t ∧
    t.halt = some r ∧ r.kind = .address .dataRead :=
  ⟨(State.reset.writeI 0xFFF#16).withFetchWord 16 0xF165, run (State.reset.writeI 0xFFF#16) 0xF165,
    record (.address .dataRead) 0x02#8 0x200#16 (some 0xF165#16) (some 0x1000),
    by decide +kernel, nextOf_eq_some (by decide +kernel), by decide +kernel, rfl⟩

theorem witness_FaultsArePreciseAndRecorded_overflow : ∃ s t : State, ∃ r, s.halt = none ∧ step s = .next t ∧
    t.halt = some r ∧ r.kind = .stack .overflow :=
  ⟨(stacked 16 0 0#16).withFetchWord 16 0x2300, run (stacked 16 0 0#16) 0x2300,
    record (.stack .overflow) 0x11#8 0x200#16 (some 0x2300#16) none,
    by decide +kernel, nextOf_eq_some (by decide +kernel), by decide +kernel, rfl⟩

theorem witness_FaultsArePreciseAndRecorded_underflow : ∃ s t : State, ∃ r, s.halt = none ∧ step s = .next t ∧
    t.halt = some r ∧ r.kind = .stack .underflow :=
  ⟨State.reset.withFetchWord 16 0x00EE, run State.reset 0x00EE,
    record (.stack .underflow) 0x12#8 0x200#16 (some 0x00EE#16) none,
    by decide +kernel, nextOf_eq_some (by decide +kernel), by decide +kernel, rfl⟩

theorem witness_RndIsAMaskedDraw : (0x0F#8 : Byte).getLsbD 4 = false := by decide +kernel

/-- The last key, and the first number that names none. -/
theorem witness_KeySkips : ((regs 1#4 0xF#8 2#4 0#8).readV 1#4).toNat = (15 : Fin 16).val ∧
    15 < ((regs 1#4 0x10#8 2#4 0#8).readV 1#4).toNat := by decide +kernel

theorem witness_KeyWaitCompletesOrSuspends : ((pressed [15]).keys[(15 : Fin 16)] = true ∧
    ∀ j : Fin 16, 15 < j → (pressed [15]).keys[j] = false) ∧
    ((pressed [0]).keys[(0 : Fin 16)] = true ∧ ∀ j : Fin 16, 0 < j → (pressed [0]).keys[j] = false) ∧
    (∀ k : Fin 16, State.reset.keys[k] = false) := by decide +kernel

theorem witness_UnrecognizedWordsAreNoOps : (Instr.unrec0nnn 0x123#12).isUnrecognized = true ∧
    (Instr.unrec5xyn 1#4 2#4 3#4).isUnrecognized = true ∧ (Instr.unrec8xy8 1#4 2#4).isUnrecognized = true ∧
    (Instr.unrec8xy9 1#4 2#4).isUnrecognized = true ∧ (Instr.unrec8xyA 1#4 2#4).isUnrecognized = true ∧
    (Instr.unrec8xyB 1#4 2#4).isUnrecognized = true ∧ (Instr.unrec8xyC 1#4 2#4).isUnrecognized = true ∧
    (Instr.unrec8xyD 1#4 2#4).isUnrecognized = true ∧ (Instr.unrec8xyF 1#4 2#4).isUnrecognized = true ∧
    (Instr.unrec9xyn 1#4 2#4 1#4).isUnrecognized = true ∧ (Instr.unrecExkk 1#4 0#8).isUnrecognized = true ∧
    (Instr.unrecFxkk 1#4 0#8).isUnrecognized = true := by decide +kernel

theorem witness_OnlyListedInstructionsWriteV : (∃ t, exec (.ldVxMem 1#4) State.reset = .next t) ∧
    2#4 ∉ writesV (.ldVxMem 1#4) := ⟨⟨_, rfl⟩, by decide +kernel⟩

theorem witness_OnlyThreeInstructionsWriteI : ∃ t, exec (.ldI 0x123#12) State.reset = .next t ∧
    t.i ≠ State.reset.i := ⟨_, rfl, by decide +kernel⟩

theorem witness_OnlyCallAndRetMoveSP :
    (∃ t, exec (.call 0x300#12) State.reset = .next t ∧ t.sp ≠ State.reset.sp) ∧
    (∃ t, exec .ret (stacked 1 0 0x200#16) = .next t ∧ t.sp ≠ (stacked 1 0 0x200#16).sp) :=
  ⟨⟨_, rfl, by decide +kernel⟩, ⟨_, rfl, by decide +kernel⟩⟩

theorem witness_OnlyClsAndDrwWriteFB :
    (∃ t, exec .cls (State.reset.writeFB 1#2048) = .next t ∧ t.fb ≠ (State.reset.writeFB 1#2048).fb) ∧
    (∃ t, exec (.drw 0#4 0#4 1#4) State.reset = .next t ∧ t.fb ≠ State.reset.fb) :=
  ⟨⟨_, rfl, by decide +kernel⟩, ⟨_, rfl, by decide +kernel⟩⟩

theorem witness_OnlyTwoInstructionsWriteMemory : let s := (regs 0#4 0xFF#8 1#4 1#8).writeI 0xFFD#16
    s.mem.wf ∧ (∃ t, exec (.ldBVx 0#4) s = .next t ∧ t.mem.read 0xFFF ≠ s.mem.read 0xFFF) ∧
    (∃ t, exec (.ldMemVx 1#4) s = .next t ∧ t.mem.read 0xFFE ≠ s.mem.read 0xFFE) :=
  ⟨by decide +kernel, ⟨_, rfl, by decide +kernel⟩, ⟨_, rfl, by decide +kernel⟩⟩

theorem witness_InputLatchIsReadByThreeAndWrittenByNone :
    (∃ t, exec (.skp 1#4) State.reset = .next t) ∧ ¬ ReadsKeys (.ldVxDt 1#4) ∧
    (∀ k, HostOp.tick ≠ .refreshKeys k) ∧ HostOp.tick ≠ .reset :=
  ⟨⟨_, rfl⟩, by simp [ReadsKeys], by simp, by simp⟩

theorem witness_TimersGateNoInstruction :
    (∃ t, exec (.ldDtVx 0#4) (regs 0#4 1#8 1#4 0#8) = .next t ∧ t.dt ≠ (regs 0#4 1#8 1#4 0#8).dt) ∧
    (∃ t, exec (.ldStVx 0#4) (regs 0#4 1#8 1#4 0#8) = .next t ∧ t.st ≠ (regs 0#4 1#8 1#4 0#8).st) ∧
    (∀ x, Instr.skp 1#4 ≠ .ldVxDt x) :=
  ⟨⟨_, rfl, by decide +kernel⟩, ⟨_, rfl, by decide +kernel⟩, by simp⟩

theorem witness_WaitIsEnteredAndLeftAsStated_entered : ∃ s : State, s.wait = none ∧
    (Event.step.apply s).wait = some 2#4 := ⟨State.reset.withFetchWord 16 0xF20A, by decide +kernel⟩

theorem witness_WaitIsEnteredAndLeftAsStated_left :
    (let s := (run State.reset 0xF20A).refreshKeys (pressed [0]).keys
     s.wait = some 2#4 ∧ (Event.step.apply s).wait ≠ some 2#4) ∧
    (let s := run State.reset 0xF20A
     s.wait = some 2#4 ∧ ((Event.host .reset).apply s).wait ≠ some 2#4) := by decide +kernel

theorem witness_WaitIsEnteredAndLeftAsStated_kept : let s := run State.reset 0xF20A
    s.wait = some 2#4 ∧ ∀ k : Fin 16, s.keys[k] = false := by decide +kernel

theorem witness_GlyphRomIsNeverMutated : 0 < 0x50 ∧ 0x4F < 0x50 := by decide +kernel

/-- The invariant holds of a waiting state at the last fetchable address, whose stack is full. -/
theorem witness_StepKeepsInvariant : ∃ s t : State, s.Inv ∧ step s = .next t ∧ s.wait = some 0#4 ∧
    s.pc.toNat = 4094 ∧ s.sp = 16 := by
  refine ⟨{ stacked 16 15 0xFFE#16 with pc := 0xFFE#16, wait := some 0#4 }, _, ⟨?_, ?_, ?_, ?_, ?_⟩, rfl, ?_⟩
  · exact State.reset_mem_wf
  · decide +kernel
  · decide +kernel
  · decide +kernel
  · intro r h; cases h
  · decide +kernel

theorem witness_EveryInterleavingKeepsInvariant : State.reset.Inv :=
  ⟨State.reset_mem_wf, by decide +kernel, by decide +kernel, by decide +kernel, fun r h => by cases h⟩

theorem witness_PCNeverWraps : State.reset.Inv ∧ State.reset.halt = none ∧
    (∃ t, step State.reset = .next t) ∧
    (∀ w, State.reset.fetch = some w → (∀ nnn, decodeWord w ≠ .jp nnn ∧ decodeWord w ≠ .call nnn ∧
        decodeWord w ≠ .jpV0 nnn) ∧ decodeWord w ≠ .ret) := by
  refine ⟨witness_EveryInterleavingKeepsInvariant, rfl, ⟨_, rfl⟩, fun w h => ?_⟩
  obtain rfl : w = 0#16 := by
    have e : State.reset.fetch = some 0#16 := by decide +kernel
    rw [e] at h
    exact (Option.some.inj h).symm
  have e : decodeWord 0#16 = .unrec0nnn 0#12 := by decide +kernel
  simp [e]

theorem witness_LoadWritesOrRejects : State.reset.mem.wf ∧
    (List.replicate 3584 0xFF#8).length ≤ 3584 ∧ 3584 < (List.replicate 3585 0xFF#8).length :=
  ⟨State.reset_mem_wf, List.length_replicate.le, by rw [List.length_replicate]; omega⟩

theorem witness_ResetSetsEveryComponent : ∃ s t : State, t = (HostOp.reset.apply s).2 ∧ s.halt ≠ none :=
  ⟨run State.reset 0x00EE, _, rfl, by decide +kernel⟩

end Sys2Proof.Tests
end

section
/-! PROOFS. The timers and the input latch (spec/10_state.md R30, R32): what every instruction does when they
hold other values, said once for all instructions, and the two statements about them. -/

open Sys2Proof.Claims

namespace Sys2Proof.Machine

/-! ## Other values of the timers and the input latch -/

/-- The state with other values of DT, ST and Keys, the components the host moves between steps. -/
def State.withTimersKeys (s : State) (d t : Byte) (k : Vector Bool 16) : State :=
  { s with dt := d, st := t, keys := k }

/-- What an instruction leaves in DT, where it held d (spec/45_random_input_timers.md R225). -/
def dtAfter (i : Instr) (s : State) (d : Byte) : Byte :=
  match i with
  | .ldDtVx x => s.readV x
  | _ => d

/-- What an instruction leaves in ST, where it held t (spec/45_random_input_timers.md R226). -/
def stAfter (i : Instr) (s : State) (t : Byte) : Byte :=
  match i with
  | .ldStVx x => s.readV x
  | _ => t

theorem ldDtVx_of_dtAfter_ne {i : Instr} {s : State} {d : Byte} (h : dtAfter i s d ≠ d) :
    ∃ x, i = .ldDtVx x := by
  unfold dtAfter at h
  split at h
  · exact ⟨_, rfl⟩
  · exact absurd rfl h

theorem ldStVx_of_stAfter_ne {i : Instr} {s : State} {t : Byte} (h : stAfter i s t ≠ t) :
    ∃ x, i = .ldStVx x := by
  unfold stAfter at h
  split at h
  · exact ⟨_, rfl⟩
  · exact absurd rfl h

section
variable (s : State) (d t : Byte) (k : Vector Bool 16)

/-! ## The shared operations under other values -/

theorem State.popAddr_withTimersKeys :
    (s.withTimersKeys d t k).popAddr = s.popAddr.map fun p => (p.1, p.2.withTimersKeys d t k) := by
  unfold State.popAddr
  by_cases h : s.sp.val = 0
  · rw [dif_pos h]; exact dif_pos h
  · rw [dif_neg h]; exact dif_neg h

theorem State.pushPC_withTimersKeys :
    (s.withTimersKeys d t k).pushPC = s.pushPC.map fun u => u.withTimersKeys d t k := by
  unfold State.pushPC
  by_cases h : s.sp.val < 16
  · rw [dif_pos h]; exact dif_pos h
  · rw [dif_neg h]; exact dif_neg h

theorem State.writeRegsFrom_withTimersKeys (n : Nat) (bs : List Byte) :
    (s.withTimersKeys d t k).writeRegsFrom n bs = (s.writeRegsFrom n bs).withTimersKeys d t k := by
  induction bs generalizing s n with
  | nil => rfl
  | cons b bs ih => exact ih (s.writeV (regOfNat n) b) (n + 1)

theorem State.highestKeyBelow_withTimers (n : Nat) :
    (s.withTimersKeys d t s.keys).highestKeyBelow n = s.highestKeyBelow n := by
  induction n with
  | zero => rfl
  | succ n ih => simp only [State.highestKeyBelow, ih]; rfl

/-- An I-relative access faults, or not, whatever the timers and the latch hold. -/
theorem withIndexAccess_withTimersKeys (a : Access) (w : Word) (n : Nat) (e : State) :
    ∃ u, withIndexAccess a w n s e = .next u ∧
      withIndexAccess a w n (s.withTimersKeys d t k) (e.withTimersKeys d t k) =
        .next (u.withTimersKeys d t k) := by
  have same : (s.withTimersKeys d t k).outOfRange n = s.outOfRange n := rfl
  unfold withIndexAccess
  rw [same]
  cases s.outOfRange n <;> exact ⟨_, rfl, rfl⟩

/-- A key wait reads the latch and no timer. -/
theorem keyWaitResume_withTimers (x : RegIdx) :
    ∃ u, keyWaitResume x s = .next u ∧
      keyWaitResume x (s.withTimersKeys d t s.keys) = .next (u.withTimersKeys d t s.keys) := by
  unfold keyWaitResume
  rw [State.highestKeyBelow_withTimers]
  cases s.highestKeyBelow 16 <;> exact ⟨_, rfl, rfl⟩

/-! ## Every instruction under other values -/

/-- With other values of the timers and the latch an instruction does the same and leaves those values,
except where it reads or writes one of them. -/
theorem exec_withTimersKeys (i : Instr) (hk : ReadsKeys i → k = s.keys)
    (hd : ∀ x, i = .ldVxDt x → d = s.dt) :
    ∃ u, exec i s = .next u ∧
      exec i (s.withTimersKeys d t k) = .next (u.withTimersKeys (dtAfter i s d) (stAfter i s t) k) := by
  cases i
  case ret =>
    simp only [exec, execRet, State.popAddr_withTimersKeys]
    cases s.popAddr <;> exact ⟨_, rfl, rfl⟩
  case call nnn =>
    simp only [exec, execCall, State.pushPC_withTimersKeys]
    cases s.pushPC <;> exact ⟨_, rfl, rfl⟩
  case drw | ldBVx | ldMemVx => exact withIndexAccess_withTimersKeys ..
  case ldVxMem x =>
    simp only [exec, execLdVxMem, State.writeRegsFrom_withTimersKeys]
    exact withIndexAccess_withTimersKeys ..
  case skp x => obtain rfl := hk ⟨x, by simp⟩; exact ⟨_, rfl, rfl⟩
  case sknp x => obtain rfl := hk ⟨x, by simp⟩; exact ⟨_, rfl, rfl⟩
  case ldVxK x => obtain rfl := hk ⟨x, by simp⟩; exact keyWaitResume_withTimers ..
  case ldVxDt x => obtain rfl := hd x rfl; exact ⟨_, rfl, rfl⟩
  all_goals exact ⟨_, rfl, rfl⟩

end

/-- What every instruction leaves in the timers and the latch. -/
theorem exec_timersKeys {i : Instr} {s u : State} (h : exec i s = .next u) :
    u.dt = dtAfter i s s.dt ∧ u.st = stAfter i s s.st ∧ u.keys = s.keys := by
  obtain ⟨u', hu, hw⟩ := exec_withTimersKeys s s.dt s.st s.keys i (fun _ => rfl) (fun _ _ => rfl)
  have own : (Host.Outcome.next u : Result) = .next (u'.withTimersKeys _ _ _) := h.symm.trans hw
  obtain rfl := Host.Outcome.next.inj own
  exact ⟨rfl, rfl, rfl⟩

theorem exec_withKeys {i : Instr} (hi : ¬ ReadsKeys i) (s : State) (k : Vector Bool 16) :
    ∃ u, exec i s = .next u ∧ exec i { s with keys := k } = .next { u with keys := k } := by
  obtain ⟨u, hu, hw⟩ := exec_withTimersKeys s s.dt s.st k i (absurd · hi) (fun _ _ => rfl)
  obtain ⟨hdt, hst, -⟩ := exec_timersKeys hu
  exact ⟨u, hu, by rw [← hdt, ← hst] at hw; exact hw⟩

theorem exec_withST (i : Instr) (s : State) (b : Byte) :
    ∃ u u', exec i s = .next u ∧ exec i { s with st := b } = .next u' ∧ u' = { u with st := u'.st } := by
  obtain ⟨u, hu, hw⟩ := exec_withTimersKeys s s.dt b s.keys i (fun _ => rfl) (fun _ _ => rfl)
  obtain ⟨hdt, -, hkeys⟩ := exec_timersKeys hu
  exact ⟨u, _, hu, hw, by rw [← hdt, ← hkeys]; rfl⟩

theorem exec_withDT {i : Instr} (hi : ∀ x, i ≠ .ldVxDt x) (s : State) (b : Byte) :
    ∃ u u', exec i s = .next u ∧ exec i { s with dt := b } = .next u' ∧ u' = { u with dt := u'.dt } := by
  obtain ⟨u, hu, hw⟩ := exec_withTimersKeys s b s.st s.keys i (fun _ => rfl) (fun x e => absurd e (hi x))
  obtain ⟨-, hst, hkeys⟩ := exec_timersKeys hu
  exact ⟨u, _, hu, hw, by rw [← hst, ← hkeys]; rfl⟩

/-! ## The host's operations -/

theorem toNat_countdown (b : Byte) : (countdown b).toNat = b.toNat - 1 := by
  unfold countdown
  split
  · bv_omega
  · omega

@[simp] theorem State.load_keys (s : State) (bytes : List Byte) : (s.load bytes).2.keys = s.keys := by
  unfold State.load
  split <;> rfl

/-- Only the refresh and reset write the latch. -/
theorem HostOp.apply_keys (s : State) {op : HostOp} (hr : ∀ k, op ≠ .refreshKeys k) (hz : op ≠ .reset) :
    (op.apply s).2.keys = s.keys := by
  cases op
  case refreshKeys k => exact absurd rfl (hr k)
  case reset => exact absurd rfl hz
  case load bytes => exact s.load_keys bytes
  case tick | readFramebuffer | readSoundTimer | readFault => rfl

/-! ## The statements -/

/-- Settles O48: the latch after any instruction, two runs with different latches, and the host's operations. -/
theorem inputLatchIsReadByThreeAndWrittenByNone : Obligations.InputLatchIsReadByThreeAndWrittenByNone := by
  refine ⟨fun i s t h => ?_, fun i s k hi => exec_withKeys hi s k, fun s k => rfl,
    fun s op hr hz => HostOp.apply_keys s hr hz⟩
  obtain ⟨-, -, hkeys⟩ := exec_timersKeys h
  exact hkeys

/-- Settles O49: the timers after any instruction, two runs with different timers, and the host's operations. -/
theorem timersGateNoInstruction : Obligations.TimersGateNoInstruction := by
  refine ⟨fun i s t h hne => ?_, fun i s t h hne => ?_, exec_withST, fun i s b hi => exec_withDT hi s b,
    fun s => ⟨toNat_countdown s.dt, toNat_countdown s.st⟩, fun s => rfl⟩
  · obtain ⟨hdt, -, -⟩ := exec_timersKeys h
    exact ldDtVx_of_dtAfter_ne (hdt ▸ hne)
  · obtain ⟨-, hst, -⟩ := exec_timersKeys h
    exact ldStVx_of_stAfter_ne (hst ▸ hne)

end Sys2Proof.Machine
end

section
/-! PROOFS. Unrecognized words (spec/40_engine_cycle.md R126; spec/60_exceptions.md R244): each of the 12 classes
runs as the one no-op. -/

open Sys2Proof.Claims

namespace Sys2Proof.Machine

/-- A state that differs in PC alone: the frame of every advance, skip and jump. -/
theorem onlyChanges_pc (s : State) (w : Word) : OnlyChanges [.pc] s { s with pc := w } :=
  ⟨fun _ _ => rfl, fun _ => rfl, fun hpc => absurd (List.mem_singleton_self _) hpc, fun _ => rfl,
    fun _ _ => rfl, fun _ => rfl, fun _ => rfl, fun _ => rfl, fun _ => rfl, fun _ _ => rfl, fun _ => rfl,
    fun _ => rfl, fun _ => rfl⟩

theorem exec_eq_noOperation_of_isUnrecognized {i : Instr} (hi : i.isUnrecognized = true) (s : State) :
    exec i s = noOperation s := by
  cases i
  case unrec0nnn | unrec5xyn | unrec8xy8 | unrec8xy9 | unrec8xyA | unrec8xyB | unrec8xyC | unrec8xyD | unrec8xyF
    | unrec9xyn | unrecExkk | unrecFxkk => rfl
  all_goals exact absurd hi Bool.false_ne_true

/-- Settles O42: every class is the no-op, which advances PC and leaves the rest. -/
theorem unrecognizedWordsAreNoOps : Obligations.UnrecognizedWordsAreNoOps := fun _ s hi =>
  ⟨s.advance, exec_eq_noOperation_of_isUnrecognized hi s, s.advance_pc, onlyChanges_pc s _⟩

end Sys2Proof.Machine
end

section
/-! PROOFS. The jump and the immediate skips (spec/42_control_flow.md R152, R154, R155): the words of each, and the
one spec of a skip. -/

open Sys2Proof.Claims

namespace Sys2Proof.Machine

/-! ## The words (spec/30_encoding.md R94) -/

theorem decodeWord_formatNNN_jp (nnn : Addr12) : decodeWord (formatNNN 0x1#4 nnn) = .jp nnn := by
  simp [decodeWord]

theorem decodeWord_formatXKK_seImm (x : RegIdx) (kk : Byte) :
    decodeWord (formatXKK 0x3#4 x kk) = .seImm x kk := by
  simp [decodeWord]

theorem decodeWord_formatXKK_sneImm (x : RegIdx) (kk : Byte) :
    decodeWord (formatXKK 0x4#4 x kk) = .sneImm x kk := by
  simp [decodeWord]

/-! ## The instructions -/

theorem exec_jp (nnn : Addr12) (s : State) : exec (.jp nnn) s = .next (s.jumpTo nnn.toNat) := rfl

theorem exec_seImm (x : RegIdx) (kk : Byte) (s : State) :
    exec (.seImm x kk) s = .next (s.skipIf (s.readV x == kk)) := rfl

theorem exec_sneImm (x : RegIdx) (kk : Byte) (s : State) :
    exec (.sneImm x kk) s = .next (s.skipIf (s.readV x != kk)) := rfl

/-- A 12-bit target fits in PC, so the jump arrives at it unreduced. -/
theorem State.toNat_pc_jumpTo_addr12 (s : State) (nnn : Addr12) : (s.jumpTo nnn.toNat).pc.toNat = nnn.toNat := by
  have fits : nnn.toNat < 2 ^ 16 := Nat.lt_trans nnn.isLt (by decide)
  rw [State.jumpTo_pc, BitVec.toNat_ofNat, Nat.mod_eq_of_lt fits]

/-- An instruction that ends in `skipIf` skips exactly when its condition holds, and moves PC alone
(spec/40_engine_cycle.md R124). -/
theorem exec_skip_of_skipIf {i : Instr} {s : State} {c : Bool} {p : Prop} [Decidable p]
    (he : exec i s = .next (s.skipIf c)) (hc : c = true ↔ p) :
    ∃ t, exec i s = .next t ∧ t.pc = (if p then s.pc + 4#16 else s.pc + 2#16) ∧ OnlyChanges [.pc] s t :=
  ⟨s.skipIf c, he, by simp only [State.skipIf_pc, hc], onlyChanges_pc s _⟩

/-! ## The statements -/

/-- Settles O17: JP is the jump to its own address field, which fits in PC. -/
theorem jpSetsPC : Obligations.JpSetsPC := fun nnn s =>
  ⟨decodeWord_formatNNN_jp nnn, s.jumpTo nnn.toNat, exec_jp nnn s, s.toNat_pc_jumpTo_addr12 nnn,
    onlyChanges_pc s _⟩

/-- Settles O20: both are skips, on Vx equal to and different from kk. -/
theorem immediateSkips : Obligations.ImmediateSkips := fun x kk s =>
  ⟨decodeWord_formatXKK_seImm x kk, decodeWord_formatXKK_sneImm x kk,
    exec_skip_of_skipIf (exec_seImm x kk s) beq_iff_eq, exec_skip_of_skipIf (exec_sneImm x kk s) bne_iff_ne⟩

end Sys2Proof.Machine
end

section
/-! PROOFS. The loads and the add immediate (spec/43_alu.md R172, R173, R174): the words of each, and the one spec
of an instruction that writes its result and no flag. -/

open Sys2Proof.Claims

namespace Sys2Proof.Machine

/-! ## The words (spec/30_encoding.md R94) -/

theorem decodeWord_formatXKK_ldImm (x : RegIdx) (kk : Byte) :
    decodeWord (formatXKK 0x6#4 x kk) = .ldImm x kk := by
  simp [decodeWord]

theorem decodeWord_formatXKK_addImm (x : RegIdx) (kk : Byte) :
    decodeWord (formatXKK 0x7#4 x kk) = .addImm x kk := by
  simp [decodeWord]

theorem decodeWord_formatXYN_ldReg (x y : RegIdx) :
    decodeWord (formatXYN 0x8#4 x y 0x0#4) = .ldReg x y := by
  simp [decodeWord, decode8]

/-! ## A result without a flag -/

theorem exec_ldImm (x : RegIdx) (kk : Byte) (s : State) : exec (.ldImm x kk) s = writeResult x kk s := rfl

theorem exec_addImm (x : RegIdx) (kk : Byte) (s : State) :
    exec (.addImm x kk) s = writeResult x (wrap8 ((s.readV x).toNat + kk.toNat)) s := rfl

theorem exec_ldReg (x y : RegIdx) (s : State) : exec (.ldReg x y) s = writeResult x (s.readV y) s := rfl

/-- The frame of a register write followed by an advance, VF as well unless it is the destination. -/
theorem onlyChanges_writeV_advance (x : RegIdx) (b : Byte) (s : State) :
    OnlyChanges [.reg x, .pc] s (s.writeV x b).advance := by
  refine ⟨fun r hr => ?_, fun _ => rfl, fun hpc => absurd (by simp) hpc, fun _ => rfl, fun _ _ => rfl,
    fun _ => rfl, fun _ => rfl, fun _ => rfl, fun _ => rfl, fun _ _ => rfl, fun _ => rfl, fun _ => rfl,
    fun _ => rfl⟩
  have hx : x ≠ r := fun e => hr (by simp [e])
  rw [State.readV_advance, State.readV_writeV, if_neg hx]

/-- An instruction that ends in `writeResult` completes with the result in Vx and PC at the next word, and
moves nothing else. -/
theorem exec_result_of_writeResult {i : Instr} {x : RegIdx} {b : Byte} {s : State} {p : Byte → Prop}
    (he : exec i s = writeResult x b s) (hb : p b) :
    ∃ t, exec i s = .next t ∧ p (t.readV x) ∧ t.pc = s.pc + 2#16 ∧ OnlyChanges [.reg x, .pc] s t :=
  ⟨(s.writeV x b).advance, he, by simpa using hb, by simp, onlyChanges_writeV_advance x b s⟩

theorem toNat_wrap8_natCast (n : Nat) : (wrap8 n).toNat = n % 256 := by
  rw [wrap8, BitVec.ofInt_natCast, BitVec.toNat_ofNat]

/-! ## The statement -/

/-- Settles O24: all three end in `writeResult`, with kk, the wrapped sum, and Vy as held before. -/
theorem loadsAndAddImmediate : Obligations.LoadsAndAddImmediate := fun x y kk s =>
  ⟨decodeWord_formatXKK_ldImm x kk, decodeWord_formatXKK_addImm x kk, decodeWord_formatXYN_ldReg x y,
    exec_result_of_writeResult (p := (· = kk)) (exec_ldImm x kk s) rfl,
    exec_result_of_writeResult (p := (·.toNat = _)) (exec_addImm x kk s)
      (toNat_wrap8_natCast ((s.readV x).toNat + kk.toNat)),
    exec_result_of_writeResult (p := (· = s.readV y)) (exec_ldReg x y s) rfl⟩

end Sys2Proof.Machine
end

section
/-! PROOFS. The loads of the index register (spec/44_index_memory.md R201, R203): the words of each, the value
each puts in I, and the one spec of an instruction that writes I. -/

open Sys2Proof.Claims

namespace Sys2Proof.Machine

/-! ## The words (spec/30_encoding.md R94) -/

theorem decodeWord_formatNNN_ldI (nnn : Addr12) : decodeWord (formatNNN 0xA#4 nnn) = .ldI nnn := by
  simp [decodeWord]

theorem decodeWord_formatXKK_ldFVx (x : RegIdx) : decodeWord (formatXKK 0xF#4 x 0x29#8) = .ldFVx x := by
  simp [decodeWord, decodeF]

/-! ## The value put in I -/

theorem toNat_zext16 (nnn : Addr12) : (zext16 nnn).toNat = nnn.toNat :=
  BitVec.toNat_setWidth_of_le (by decide)

/-- The mask 0x0F keeps the low nibble, and five times a nibble fits in I. -/
theorem toNat_glyphAddr (b : Byte) : (glyphAddr b).toNat = b.toNat % 16 * 5 := by
  have lowNibble : (b &&& 0x0F#8).toNat = b.toNat % 16 := Nat.and_two_pow_sub_one_eq_mod b.toNat 4
  rw [glyphAddr, lowNibble, BitVec.toNat_ofNat]
  omega

/-! ## A write of I -/

theorem exec_ldI (nnn : Addr12) (s : State) : exec (.ldI nnn) s = .next (s.writeI (zext16 nnn)).advance := rfl

theorem exec_ldFVx (x : RegIdx) (s : State) :
    exec (.ldFVx x) s = .next (s.writeI (glyphAddr (s.readV x))).advance := rfl

/-- The frame of a write of I followed by an advance: no register, so no flag, and no memory. -/
theorem onlyChanges_writeI_advance (w : Word) (s : State) :
    OnlyChanges [.i, .pc] s (s.writeI w).advance :=
  ⟨fun _ _ => rfl, fun hi => absurd (by simp) hi, fun hpc => absurd (by simp) hpc, fun _ => rfl,
    fun _ _ => rfl, fun _ => rfl, fun _ => rfl, fun _ => rfl, fun _ => rfl, fun _ _ => rfl, fun _ => rfl,
    fun _ => rfl, fun _ => rfl⟩

/-- An instruction that writes I and advances completes with I as a number, PC at the next word, and moves
nothing else. -/
theorem exec_index_of_writeI {i : Instr} {w : Word} {s : State} {n : Nat}
    (he : exec i s = .next (s.writeI w).advance) (hw : w.toNat = n) :
    ∃ t, exec i s = .next t ∧ t.i.toNat = n ∧ t.pc = s.pc + 2#16 ∧ OnlyChanges [.i, .pc] s t :=
  ⟨(s.writeI w).advance, he, by simpa using hw, by simp, onlyChanges_writeI_advance w s⟩

/-! ## The statement -/

/-- Settles O30: both write I and advance, with the address field and with the glyph of the low nibble. -/
theorem ldIAndLdFSetIndex : Obligations.LdIAndLdFSetIndex := fun nnn x s =>
  ⟨decodeWord_formatNNN_ldI nnn, decodeWord_formatXKK_ldFVx x,
    exec_index_of_writeI (exec_ldI nnn s) (toNat_zext16 nnn),
    exec_index_of_writeI (exec_ldFVx x s) (toNat_glyphAddr (s.readV x))⟩

end Sys2Proof.Machine
end

section
/-! PROOFS. The timer moves (spec/45_random_input_timers.md R223, R225, R226): the words of each, the frame of a
write of a timer, and the statement. -/

open Sys2Proof.Claims

namespace Sys2Proof.Machine

/-! ## The words (spec/30_encoding.md R94) -/

theorem decodeWord_formatXKK_ldVxDt (x : RegIdx) : decodeWord (formatXKK 0xF#4 x 0x07#8) = .ldVxDt x := by
  simp [decodeWord, decodeF]

theorem decodeWord_formatXKK_ldDtVx (x : RegIdx) : decodeWord (formatXKK 0xF#4 x 0x15#8) = .ldDtVx x := by
  simp [decodeWord, decodeF]

theorem decodeWord_formatXKK_ldStVx (x : RegIdx) : decodeWord (formatXKK 0xF#4 x 0x18#8) = .ldStVx x := by
  simp [decodeWord, decodeF]

/-! ## What each computes -/

theorem exec_ldVxDt (x : RegIdx) (s : State) : exec (.ldVxDt x) s = writeResult x s.dt s := rfl

theorem exec_ldDtVx (x : RegIdx) (s : State) :
    exec (.ldDtVx x) s = .next (s.writeDT (s.readV x)).advance := rfl

theorem exec_ldStVx (x : RegIdx) (s : State) :
    exec (.ldStVx x) s = .next (s.writeST (s.readV x)).advance := rfl

/-! ## A write of a timer leaves the other timer and everything else -/

theorem onlyChanges_writeDT_advance (b : Byte) (s : State) :
    OnlyChanges [.dt, .pc] s (s.writeDT b).advance :=
  ⟨fun _ _ => rfl, fun _ => rfl, fun hpc => absurd (by simp) hpc, fun _ => rfl, fun _ _ => rfl,
    fun hdt => absurd (by simp) hdt, fun _ => rfl, fun _ => rfl, fun _ => rfl, fun _ _ => rfl, fun _ => rfl,
    fun _ => rfl, fun _ => rfl⟩

theorem onlyChanges_writeST_advance (b : Byte) (s : State) :
    OnlyChanges [.st, .pc] s (s.writeST b).advance :=
  ⟨fun _ _ => rfl, fun _ => rfl, fun hpc => absurd (by simp) hpc, fun _ => rfl, fun _ _ => rfl, fun _ => rfl,
    fun hst => absurd (by simp) hst, fun _ => rfl, fun _ => rfl, fun _ _ => rfl, fun _ => rfl, fun _ => rfl,
    fun _ => rfl⟩

/-! ## The statement -/

/-- Settles O40: the first is a `writeResult` of DT; the other two write a timer with Vx and advance. -/
theorem timerMoves : Obligations.TimerMoves := fun x s =>
  ⟨decodeWord_formatXKK_ldVxDt x, decodeWord_formatXKK_ldDtVx x, decodeWord_formatXKK_ldStVx x,
    exec_result_of_writeResult (p := (· = s.dt)) (exec_ldVxDt x s) rfl,
    ⟨_, exec_ldDtVx x s, by simp, by simp, onlyChanges_writeDT_advance (s.readV x) s⟩,
    ⟨_, exec_ldStVx x s, by simp, by simp, onlyChanges_writeST_advance (s.readV x) s⟩⟩

end Sys2Proof.Machine
end

section
/-! PROOFS. The host's ticks, key refresh and reads (spec/60_exceptions.md R250, R253-R255, R257): the frame of
an operation that moves the timers and the latch alone, what n ticks leave, and the three statements. -/

open Sys2Proof.Claims

namespace Sys2Proof.Machine

/-! ## The frame -/

/-- A state with other timers and latch differs in nothing else, and in each of these three only where the
frame allows it. -/
theorem onlyChanges_withTimersKeys {s : State} {d t : Byte} {k : Vector Bool 16} {may : List Part}
    (hd : .dt ∉ may → d = s.dt) (ht : .st ∉ may → t = s.st) (hk : .keys ∉ may → k = s.keys) :
    OnlyChanges may s (s.withTimersKeys d t k) :=
  ⟨fun _ _ => rfl, fun _ => rfl, fun _ => rfl, fun _ => rfl, fun _ _ => rfl, hd, ht, hk, fun _ => rfl,
    fun _ _ => rfl, fun _ => rfl, fun _ => rfl, fun _ => rfl⟩

/-! ## Ticks in a row -/

theorem toNat_iterate_countdown (n : Nat) (b : Byte) : (countdown^[n] b).toNat = b.toNat - n := by
  induction n generalizing b with
  | zero => rfl
  | succ n ih => rw [Function.iterate_succ_apply, ih, toNat_countdown, Nat.sub_sub, Nat.add_comm 1]

/-- n ticks are n countdowns of each timer; no tick looks at Halt or Wait (spec/60_exceptions.md R250, D28). -/
theorem runEvents_replicate_tick (n : Nat) (s : State) :
    runEvents s (List.replicate n (.host .tick)) =
      s.withTimersKeys (countdown^[n] s.dt) (countdown^[n] s.st) s.keys := by
  induction n generalizing s with
  | zero => rfl
  | succ n ih => exact ih s.tick

/-! ## The refresh and the sound -/

theorem HostOp.apply_refreshKeys (s : State) (k : Vector Bool 16) :
    ((HostOp.refreshKeys k).apply s).2 = s.withTimersKeys s.dt s.st k := rfl

theorem State.soundOn_iff (s : State) : s.soundOn = true ↔ s.st.toNat ≠ 0 :=
  bne_iff_ne.trans BitVec.toNat_inj.not.symm

/-! ## The statements -/

/-- Settles O56: n ticks are n countdowns, each taking one off a timer above 0, and move the timers alone. -/
theorem ticksCountDownAndHoldAtZero : Obligations.TicksCountDownAndHoldAtZero := fun s n => by
  rw [runEvents_replicate_tick]
  exact ⟨toNat_iterate_countdown n s.dt, toNat_iterate_countdown n s.st,
    onlyChanges_withTimersKeys (fun hd => absurd (by simp) hd) (fun ht => absurd (by simp) ht) fun _ => rfl⟩

/-- Settles O57: the refresh puts k in the latch whole and keeps the timers and the rest. -/
theorem refreshOverwritesEveryKey : Obligations.RefreshOverwritesEveryKey := fun s k => by
  rw [HostOp.apply_refreshKeys]
  exact ⟨fun _ => rfl,
    onlyChanges_withTimersKeys (fun _ => rfl) (fun _ => rfl) fun hk => absurd (by simp) hk⟩

/-- Settles O60: each read answers with its component beside the state it was given, and the sound is on
exactly when ST is not 0. -/
theorem hostReadsChangeNothing : Obligations.HostReadsChangeNothing := fun s =>
  ⟨rfl, rfl, rfl, s.soundOn_iff⟩

end Sys2Proof.Machine
end

section
/-! PROOFS. The decoder and the encoder (spec/30_encoding.md R91-R98): each undoes the other, the decoder follows
the opcode table, and the unrecognized words are those of R96. -/

namespace Sys2Proof

/-! ## A word equals a format exactly field by field -/

theorem formatNNN_eq_iff {op : Nibble} {nnn : Addr12} {w : Word} :
    formatNNN op nnn = w ↔ op = opField w ∧ nnn = nnnField w :=
  ⟨by rintro rfl; simp, by rintro ⟨rfl, rfl⟩; simp⟩

theorem formatNNN_nnnField {op : Nibble} {w : Word} (h : opField w = op) : formatNNN op (nnnField w) = w :=
  h ▸ formatNNN_fields w

theorem formatXKK_kkField {op : Nibble} {w : Word} (h : opField w = op) :
    formatXKK op (xField w) (kkField w) = w :=
  h ▸ formatXKK_fields w

theorem formatXKK_selector {op : Nibble} {kk : Byte} {w : Word} (h : opField w = op) (hk : kkField w = kk) :
    formatXKK op (xField w) kk = w :=
  hk ▸ formatXKK_kkField h

theorem formatXYN_nField {op : Nibble} {w : Word} (h : opField w = op) :
    formatXYN op (xField w) (yField w) (nField w) = w :=
  h ▸ formatXYN_fields w

theorem formatXYN_selector {op n : Nibble} {w : Word} (h : opField w = op) (hn : nField w = n) :
    formatXYN op (xField w) (yField w) n = w :=
  hn ▸ formatXYN_nField h

/-! ## Decoding an encoding -/

theorem decodeWord_formatNNN_unrec {nnn : Addr12} (hcls : nnn ≠ 0x0E0#12) (hret : nnn ≠ 0x0EE#12) :
    decodeWord (formatNNN 0x0#4 nnn) = .unrec0nnn nnn := by
  have cls_field : nnnField 0x00E0#16 = 0x0E0#12 := rfl
  have ret_field : nnnField 0x00EE#16 = 0x0EE#12 := rfl
  simp [decodeWord, decode0, formatNNN_eq_iff, cls_field, ret_field, hcls, hret]

theorem decodeWord_formatXYN_unrec5 (x y : RegIdx) {n : Nibble} (hn : n ≠ 0#4) :
    decodeWord (formatXYN 0x5#4 x y n) = .unrec5xyn x y n := by
  simp [decodeWord, decode5, hn]

theorem decodeWord_formatXYN_unrec9 (x y : RegIdx) {n : Nibble} (hn : n ≠ 0#4) :
    decodeWord (formatXYN 0x9#4 x y n) = .unrec9xyn x y n := by
  simp [decodeWord, decode9, hn]

theorem decodeWord_formatXKK_unrecE (x : RegIdx) {kk : Byte} (hk : kk ∉ selectorsE) :
    decodeWord (formatXKK 0xE#4 x kk) = .unrecExkk x kk := by
  simp only [selectorsE, List.mem_cons, List.not_mem_nil, or_false, not_or] at hk
  simp [decodeWord, decodeE, hk]

theorem decodeWord_formatXKK_unrecF (x : RegIdx) {kk : Byte} (hk : kk ∉ selectorsF) :
    decodeWord (formatXKK 0xF#4 x kk) = .unrecFxkk x kk := by
  simp only [selectorsF, List.mem_cons, List.not_mem_nil, or_false, not_or] at hk
  simp [decodeWord, decodeF, hk]

/-- Settles O1: the fields of each format are read back as they were put in, and a word of an unrecognized
class passes every test of its family. -/
theorem decodeEncodeRoundTrip : Obligations.DecodeEncodeRoundTrip := by
  intro i hi
  cases i
  case cls | ret => rfl
  case unrec0nnn nnn =>
    simp only [Instr.wellFormed, Bool.and_eq_true, bne_iff_ne] at hi
    exact decodeWord_formatNNN_unrec hi.1 hi.2
  case unrec5xyn x y n => exact decodeWord_formatXYN_unrec5 x y (by simpa [Instr.wellFormed] using hi)
  case unrec9xyn x y n => exact decodeWord_formatXYN_unrec9 x y (by simpa [Instr.wellFormed] using hi)
  case unrecExkk x kk => exact decodeWord_formatXKK_unrecE x (by simpa [Instr.wellFormed] using hi)
  case unrecFxkk x kk => exact decodeWord_formatXKK_unrecF x (by simpa [Instr.wellFormed] using hi)
  all_goals simp [encode, decodeWord, decode5, decode8, decode9, decodeE, decodeF]

/-! ## Encoding a decoding -/

/-- The instruction is well-formed and its word is w. -/
def Encodes (i : Instr) (w : Word) : Prop := encode i = w ∧ i.wellFormed = true

theorem encodes_decode0 {w : Word} (h : opField w = 0x0#4) : Encodes (decode0 w) w := by
  have word := formatNNN_nnnField h
  have field_ne (c : Addr12) (hc : w ≠ formatNNN 0x0#4 c) : nnnField w ≠ c := fun e => hc (e ▸ word.symm)
  unfold decode0
  split_ifs with cls ret
  · exact ⟨cls.symm, rfl⟩
  · exact ⟨ret.symm, rfl⟩
  · exact ⟨word, by simp [Instr.wellFormed, field_ne 0x0E0#12 cls, field_ne 0x0EE#12 ret]⟩

theorem encodes_decode5 {w : Word} (h : opField w = 0x5#4) : Encodes (decode5 w) w := by
  unfold decode5
  split_ifs with n
  · exact ⟨formatXYN_selector h n, rfl⟩
  · exact ⟨formatXYN_nField h, by simp [Instr.wellFormed, n]⟩

theorem encodes_decode9 {w : Word} (h : opField w = 0x9#4) : Encodes (decode9 w) w := by
  unfold decode9
  split_ifs with n
  · exact ⟨formatXYN_selector h n, rfl⟩
  · exact ⟨formatXYN_nField h, by simp [Instr.wellFormed, n]⟩

/-- The values a selection by a nibble goes through. -/
theorem nibble_cases (n : Nibble) :
    n = 0x0#4 ∨ n = 0x1#4 ∨ n = 0x2#4 ∨ n = 0x3#4 ∨ n = 0x4#4 ∨ n = 0x5#4 ∨ n = 0x6#4 ∨ n = 0x7#4 ∨
    n = 0x8#4 ∨ n = 0x9#4 ∨ n = 0xA#4 ∨ n = 0xB#4 ∨ n = 0xC#4 ∨ n = 0xD#4 ∨ n = 0xE#4 ∨ n = 0xF#4 := by
  revert n; decide

theorem encodes_decode8 {w : Word} (h : opField w = 0x8#4) : Encodes (decode8 w) w := by
  unfold decode8
  rcases nibble_cases (nField w) with hn | hn | hn | hn | hn | hn | hn | hn | hn | hn | hn | hn | hn | hn | hn | hn
  all_goals
    rw [hn]
    exact ⟨formatXYN_selector h hn, rfl⟩

theorem encodes_decodeE {w : Word} (h : opField w = 0xE#4) : Encodes (decodeE w) w := by
  unfold decodeE
  split_ifs with skp sknp
  · exact ⟨formatXKK_selector h skp, rfl⟩
  · exact ⟨formatXKK_selector h sknp, rfl⟩
  · exact ⟨formatXKK_kkField h, by simp [Instr.wellFormed, selectorsE, skp, sknp]⟩

theorem encodes_decodeF {w : Word} (h : opField w = 0xF#4) : Encodes (decodeF w) w := by
  unfold decodeF
  dsimp only
  split_ifs
  case neg => exact ⟨formatXKK_kkField h, by simp [Instr.wellFormed, selectorsF, *]⟩
  all_goals exact ⟨formatXKK_selector h ‹_›, rfl⟩

theorem encodes_decodeWord (w : Word) : Encodes (decodeWord w) w := by
  unfold decodeWord
  rcases nibble_cases (opField w) with h | h | h | h | h | h | h | h | h | h | h | h | h | h | h | h
  all_goals rw [h]
  · exact encodes_decode0 h
  · exact ⟨formatNNN_nnnField h, rfl⟩
  · exact ⟨formatNNN_nnnField h, rfl⟩
  · exact ⟨formatXKK_kkField h, rfl⟩
  · exact ⟨formatXKK_kkField h, rfl⟩
  · exact encodes_decode5 h
  · exact ⟨formatXKK_kkField h, rfl⟩
  · exact ⟨formatXKK_kkField h, rfl⟩
  · exact encodes_decode8 h
  · exact encodes_decode9 h
  · exact ⟨formatNNN_nnnField h, rfl⟩
  · exact ⟨formatNNN_nnnField h, rfl⟩
  · exact ⟨formatXKK_kkField h, rfl⟩
  · exact ⟨formatXYN_nField h, rfl⟩
  · exact encodes_decodeE h
  · exact encodes_decodeF h

/-- Settles O2: in every family the fields kept are all the bits of the word. -/
theorem encodeDecodeRoundTrip : Obligations.EncodeDecodeRoundTrip := encodes_decodeWord

/-! ## The opcode table (spec/30_encoding.md R98) -/

section
open Laws.TableBits

/-- Every instruction's word matches its own row. -/
theorem encode_matches_tableRow (i : Instr) : encode i &&& (tableRow i).1 = (tableRow i).2 := by
  cases i
  case cls | ret => rfl
  case jp | call | ldI | jpV0 | unrec0nnn => exact (mask_nnn _ _).trans rfl
  case seImm | sneImm | ldImm | addImm | rnd | unrecExkk | unrecFxkk => exact (mask_xkk _ _ _).trans rfl
  case drw | unrec5xyn | unrec9xyn => exact (mask_xyn _ _ _ _).trans rfl
  case skp | sknp | ldVxDt | ldVxK | ldDtVx | ldStVx | addIVx | ldFVx | ldBVx | ldMemVx | ldVxMem =>
    exact (mask_xsel _ _ _).trans rfl
  all_goals exact (mask_xysel _ _ _ _).trans rfl

/-! Two words that agree under a mask of the table have the same fields there. -/

theorem opField_eq_of_mask {w u : Word} (h : w &&& 0xF000#16 = u &&& 0xF000#16) : opField w = opField u := by
  rw [← formatNNN_fields w, ← formatNNN_fields u, mask_nnn, mask_nnn] at h
  simpa using congrArg opField h

theorem fields_eq_of_mask_xysel {w u : Word} (h : w &&& 0xF00F#16 = u &&& 0xF00F#16) :
    opField w = opField u ∧ nField w = nField u := by
  rw [← formatXYN_fields w, ← formatXYN_fields u, mask_xysel, mask_xysel] at h
  exact ⟨by simpa using congrArg opField h, by simpa using congrArg nField h⟩

theorem fields_eq_of_mask_xsel {w u : Word} (h : w &&& 0xF0FF#16 = u &&& 0xF0FF#16) :
    opField w = opField u ∧ kkField w = kkField u := by
  rw [← formatXKK_fields w, ← formatXKK_fields u, mask_xsel, mask_xsel] at h
  exact ⟨by simpa using congrArg opField h, by simpa using congrArg kkField h⟩

end

/-- A word that matches an instruction's row has that instruction's selectors, so it decodes to the row. -/
theorem tableRow_decodeWord {w : Word} {i : Instr} (hi : i.isUnrecognized = false)
    (h : w &&& (tableRow i).1 = (tableRow i).2) :
    tableRow (decodeWord w) = tableRow i ∧ (decodeWord w).isUnrecognized = false := by
  have agree := h.trans (encode_matches_tableRow i).symm
  cases i
  case cls | ret =>
    obtain rfl := BitVec.and_allOnes.symm.trans h
    exact ⟨rfl, rfl⟩
  case jp | call | ldI | jpV0 | seImm | sneImm | ldImm | addImm | rnd | drw =>
    have op := opField_eq_of_mask agree
    simp only [encode, opField_formatNNN, opField_formatXKK, opField_formatXYN] at op
    simp [decodeWord, op, tableRow, Instr.isUnrecognized]
  case seReg | ldReg | orReg | andReg | xorReg | addReg | sub | shr | subn | shl | sneReg =>
    obtain ⟨op, n⟩ := fields_eq_of_mask_xysel agree
    simp only [encode, opField_formatXYN, nField_formatXYN] at op n
    simp [decodeWord, decode5, decode8, decode9, op, n, tableRow, Instr.isUnrecognized]
  case skp | sknp | ldVxDt | ldVxK | ldDtVx | ldStVx | addIVx | ldFVx | ldBVx | ldMemVx | ldVxMem =>
    obtain ⟨op, kk⟩ := fields_eq_of_mask_xsel agree
    simp only [encode, opField_formatXKK, kkField_formatXKK] at op kk
    simp [decodeWord, decodeE, decodeF, op, kk, tableRow, Instr.isUnrecognized]
  all_goals exact absurd hi.symm Bool.false_ne_true

/-- Settles O3: a word is the encoding of its decoding, which matches its row, and a match fixes every field the
decoder selects by. -/
theorem decodeFollowsOpcodeTable : Obligations.DecodeFollowsOpcodeTable := by
  refine fun w => ⟨?_, fun i hi h => tableRow_decodeWord hi h⟩
  obtain ⟨encoded, -⟩ := encodes_decodeWord w
  have row := encode_matches_tableRow (decodeWord w)
  rwa [encoded] at row

/-- Settles O4: the decoder run on each word. -/
theorem writtenOutWordsDecode : Obligations.WrittenOutWordsDecode :=
  ⟨rfl, rfl, rfl, rfl, rfl, rfl, rfl, rfl⟩

/-! ## The unrecognized words (spec/30_encoding.md R96) -/

theorem toNat_opField (w : Word) : (opField w).toNat = w.toNat / 0x1000 := by
  rw [opField, BitVec.extractLsb'_toNat, Nat.shiftRight_eq_div_pow]
  omega

theorem toNat_nField (w : Word) : (nField w).toNat = w.toNat % 16 := by
  simp [nField, BitVec.extractLsb'_toNat]

theorem toNat_kkField (w : Word) : (kkField w).toNat = w.toNat % 256 := by
  simp [kkField, BitVec.extractLsb'_toNat]

theorem nField_eq_zero_iff (w : Word) : nField w = 0#4 ↔ w.toNat % 16 = 0 := by
  rw [← toNat_nField]
  exact BitVec.toNat_inj.symm

theorem kkField_mem_iff (w : Word) (l : List Byte) : kkField w ∈ l ↔ w.toNat % 256 ∈ l.map BitVec.toNat := by
  rw [← toNat_kkField]
  exact (List.mem_map_of_injective BitVec.toNat_injective).symm

/-! The words each family leaves unrecognized. -/

theorem isUnrecognized_decode0 (w : Word) :
    (decode0 w).isUnrecognized = true ↔ w.toNat ≠ 0x00E0 ∧ w.toNat ≠ 0x00EE := by
  have cls : w.toNat = 0x00E0 ↔ w = 0x00E0#16 := BitVec.toNat_inj (y := 0x00E0#16)
  have ret : w.toNat = 0x00EE ↔ w = 0x00EE#16 := BitVec.toNat_inj (y := 0x00EE#16)
  rw [ne_eq, ne_eq, cls, ret, decode0]
  split_ifs with h h' <;> simp [Instr.isUnrecognized, *]

theorem isUnrecognized_decode5 (w : Word) : (decode5 w).isUnrecognized = true ↔ w.toNat % 16 ≠ 0 := by
  rw [ne_eq, ← nField_eq_zero_iff, decode5]
  split_ifs with h <;> simp [Instr.isUnrecognized, h]

theorem isUnrecognized_decode9 (w : Word) : (decode9 w).isUnrecognized = true ↔ w.toNat % 16 ≠ 0 := by
  rw [ne_eq, ← nField_eq_zero_iff, decode9]
  split_ifs with h <;> simp [Instr.isUnrecognized, h]

theorem isUnrecognized_decode8 (w : Word) :
    (decode8 w).isUnrecognized = true ↔ w.toNat % 16 ∈ [0x8, 0x9, 0xA, 0xB, 0xC, 0xD, 0xF] := by
  rw [← toNat_nField, decode8]
  rcases nibble_cases (nField w) with n | n | n | n | n | n | n | n | n | n | n | n | n | n | n | n
  all_goals
    rw [n]
    simp [Instr.isUnrecognized]

theorem isUnrecognized_decodeE (w : Word) :
    (decodeE w).isUnrecognized = true ↔ w.toNat % 256 ∉ [0x9E, 0xA1] := by
  refine Iff.trans ?_ (kkField_mem_iff w selectorsE).not
  rw [decodeE]
  split_ifs with skp sknp <;> simp [Instr.isUnrecognized, selectorsE, *]

theorem isUnrecognized_decodeF (w : Word) :
    (decodeF w).isUnrecognized = true ↔
      w.toNat % 256 ∉ [0x07, 0x0A, 0x15, 0x18, 0x1E, 0x29, 0x33, 0x55, 0x65] := by
  refine Iff.trans ?_ (kkField_mem_iff w selectorsF).not
  unfold decodeF
  dsimp only
  split_ifs <;> simp [Instr.isUnrecognized, selectorsF, *]

/-- Settles O5: family by family, the words no selector takes. -/
theorem unrecognizedSetIsExact : Obligations.UnrecognizedSetIsExact := by
  intro w
  have op := toNat_opField w
  have family0 : w.toNat < 0x1000 ↔ w.toNat / 0x1000 = 0 := by omega
  unfold decodeWord
  rcases nibble_cases (opField w) with h | h | h | h | h | h | h | h | h | h | h | h | h | h | h | h
  all_goals
    rw [h] at op ⊢
    simp [family0, ← op, isUnrecognized_decode0, isUnrecognized_decode5, isUnrecognized_decode8,
      isUnrecognized_decode9, isUnrecognized_decodeE, isUnrecognized_decodeF]
  all_goals rfl

end Sys2Proof
end

section
/-! PROOFS. Frames (what may change and what stays): how they compose, one for each state operation, and one for
the effect of every instruction. -/

open Sys2Proof.Claims

namespace Sys2Proof.Claims

open Sys2Proof.Machine

/-! ## Frames compose -/

/-- The two states agree on a part. -/
def SameAt (s t : State) : Part → Prop
  | .reg r => t.readV r = s.readV r
  | .i => t.i = s.i
  | .pc => t.pc = s.pc
  | .sp => t.sp = s.sp
  | .slot k => t.stack[k] = s.stack[k]
  | .dt => t.dt = s.dt
  | .st => t.st = s.st
  | .keys => t.keys = s.keys
  | .fb => t.fb = s.fb
  | .byte a => t.mem.read a = s.mem.read a
  | .wait => t.wait = s.wait
  | .halt => t.halt = s.halt
  | .draws => t.draws = s.draws

theorem SameAt.trans {s t u : State} {p : Part} (h : SameAt s t p) (g : SameAt t u p) : SameAt s u p := by
  cases p <;> exact Eq.trans g h

/-- A frame says that the two states agree on every part it does not list. -/
theorem onlyChanges_iff {may : List Part} {s t : State} : OnlyChanges may s t ↔ ∀ p ∉ may, SameAt s t p := by
  constructor
  · rintro ⟨hv, hi, hpc, hsp, hslot, hdt, hst, hkeys, hfb, hbyte, hwait, hhalt, hdraws⟩ p
    cases p with
    | reg r => exact hv r
    | slot k => exact hslot k
    | byte a => exact hbyte a
    | i | pc | sp | dt | st | keys | fb | wait | halt | draws => assumption
  · intro h
    exact ⟨fun r => h (.reg r), h .i, h .pc, h .sp, fun k => h (.slot k), h .dt, h .st, h .keys, h .fb,
      fun a => h (.byte a), h .wait, h .halt, h .draws⟩

theorem OnlyChanges.sameAt {may : List Part} {s t : State} (h : OnlyChanges may s t) {p : Part} (hp : p ∉ may) :
    SameAt s t p :=
  onlyChanges_iff.1 h p hp

theorem OnlyChanges.mono {may more : List Part} {s t : State} (h : OnlyChanges may s t) (hm : may ⊆ more) :
    OnlyChanges more s t :=
  onlyChanges_iff.2 fun _ hp => h.sameAt fun hmay => hp (hm hmay)

theorem OnlyChanges.trans {may : List Part} {s t u : State} (h : OnlyChanges may s t)
    (g : OnlyChanges may t u) : OnlyChanges may s u :=
  onlyChanges_iff.2 fun _ hp => (h.sameAt hp).trans (g.sameAt hp)

theorem OnlyChanges.refl {may : List Part} (s : State) : OnlyChanges may s s :=
  onlyChanges_iff.2 fun p _ => by cases p <;> rfl

/-! ## One rule for each state operation: a frame that lists what the operation writes goes on through it -/

section
variable {may : List Part} {s t : State} (h : OnlyChanges may s t)
include h

theorem OnlyChanges.advance (hp : .pc ∈ may) : OnlyChanges may s t.advance :=
  h.trans (by simp [OnlyChanges, hp])

theorem OnlyChanges.skipIf (c : Bool) (hp : .pc ∈ may) : OnlyChanges may s (t.skipIf c) :=
  h.trans (by simp [OnlyChanges, hp])

theorem OnlyChanges.jumpTo (n : Nat) (hp : .pc ∈ may) : OnlyChanges may s (t.jumpTo n) :=
  h.trans (by simp [OnlyChanges, hp])

theorem OnlyChanges.writeI (w : Word) (hp : .i ∈ may) : OnlyChanges may s (t.writeI w) :=
  h.trans (by simp [OnlyChanges, hp])

theorem OnlyChanges.writeDT (b : Byte) (hp : .dt ∈ may) : OnlyChanges may s (t.writeDT b) :=
  h.trans (by simp [OnlyChanges, hp])

theorem OnlyChanges.writeST (b : Byte) (hp : .st ∈ may) : OnlyChanges may s (t.writeST b) :=
  h.trans (by simp [OnlyChanges, hp])

theorem OnlyChanges.writeFB (p : Bitplane) (hp : .fb ∈ may) : OnlyChanges may s (t.writeFB p) :=
  h.trans (by simp [OnlyChanges, hp])

theorem OnlyChanges.writeWait (w : Option RegIdx) (hp : .wait ∈ may) : OnlyChanges may s (t.writeWait w) :=
  h.trans (by simp [OnlyChanges, hp])

theorem OnlyChanges.countDraw (hp : .draws ∈ may) : OnlyChanges may s t.countDraw :=
  h.trans (by simp [OnlyChanges, hp])

theorem OnlyChanges.raiseFault (k : FaultKind) (o : Option Word) (a : Option Nat) (hp : .halt ∈ may) :
    OnlyChanges may s (t.raiseFault k o a) :=
  h.trans (by simp [OnlyChanges, hp])

theorem OnlyChanges.writeV {x : RegIdx} (b : Byte) (hp : .reg x ∈ may) : OnlyChanges may s (t.writeV x b) := by
  refine h.trans ?_
  simp only [OnlyChanges, State.readV_writeV]
  refine ⟨fun r hr => if_neg ?_, by simp⟩
  rintro rfl
  exact hr hp

theorem OnlyChanges.writeFlag (f : Bool) (hp : .reg vf ∈ may) : OnlyChanges may s (t.writeFlag f) :=
  h.writeV (flagByte f) hp

theorem OnlyChanges.writeRegsFrom (bs : List Byte) {k : Nat}
    (hp : ∀ j < bs.length, .reg (regOfNat (k + j)) ∈ may) : OnlyChanges may s (t.writeRegsFrom k bs) := by
  induction bs generalizing t k with
  | nil => exact h
  | cons b bs ih =>
    refine ih (h.writeV b (hp 0 (by simp))) fun j hj => ?_
    rw [Nat.add_assoc, Nat.add_comm 1 j]
    exact hp (j + 1) (by simpa using hj)

theorem OnlyChanges.writeMem {m : Memory} (hp : ∀ a, .byte a ∉ may → m.read a = t.mem.read a) :
    OnlyChanges may s (t.writeMem m) :=
  h.trans (by simpa [OnlyChanges] using hp)

theorem OnlyChanges.pushPC {u : State} (hu : t.pushPC = some u) (hsp : .sp ∈ may)
    (hslot : ∀ k : Fin 16, k.val = t.sp.val → .slot k ∈ may) : OnlyChanges may s u := by
  obtain ⟨hlt, rfl⟩ := State.pushPC_eq_some hu
  refine h.trans (onlyChanges_iff.2 fun p hp => ?_)
  cases p with
  | sp => exact absurd hsp hp
  | slot k => exact Vector.getElem_set_ne hlt k.isLt fun e => hp (hslot k e.symm)
  | reg | i | pc | dt | st | keys | fb | byte | wait | halt | draws => rfl

theorem OnlyChanges.popAddr {u : State} {a : Word} (hu : t.popAddr = some (a, u)) (hsp : .sp ∈ may) :
    OnlyChanges may s u := by
  obtain ⟨_, -, rfl⟩ := State.popAddr_eq_some hu
  exact h.trans (by simp [OnlyChanges, hsp, State.readV])

end

end Sys2Proof.Claims

namespace Sys2Proof.Machine

/-! ## Stores change no other byte, whatever the form of memory -/

theorem cellsRead_cellsWrite_of_ne (d : Byte) {a b : Nat} (v : Byte) (cells : List Host.Cell) (h : b ≠ a) :
    cellsRead d (cellsWrite d a v cells) b = cellsRead d cells b := by
  induction cells with
  | nil => by_cases hv : v = d <;> simp [cellsWrite, cellsRead, hv, h]
  | cons c rest ih =>
    obtain ⟨c1, c2⟩ := c
    simp only [cellsWrite]
    split_ifs <;> simp_all [cellsRead]

theorem Memory.unlisted_of_le (m : Memory) {a : Nat} (h : Config.glyphSize ≤ a) : m.unlisted a = Config.ramReset :=
  dif_neg (Nat.not_lt.2 h)

theorem Memory.read_of_le (m : Memory) {a : Nat} (h : Config.glyphSize ≤ a) :
    m.read a = cellsRead Config.ramReset m.cells a := by
  rw [Memory.read, if_neg (Nat.not_lt.2 h), m.unlisted_of_le h]

theorem Memory.read_write_of_ne (m : Memory) {a b : Nat} (v : Byte) (h : b ≠ a) :
    (m.write a v).read b = m.read b := by
  rcases Nat.lt_or_ge b Config.glyphSize with hb | hb
  · simp only [Memory.read_glyph _ hb, Memory.write_glyph]
  · rw [Memory.read_of_le _ hb, Memory.read_of_le _ hb, Memory.write]
    split_ifs
    · rfl
    · rfl
    · exact cellsRead_cellsWrite_of_ne _ v m.cells h

theorem Memory.read_writeBlock_of_not_mem (m : Memory) (a : Nat) (bs : List Byte) {b : Nat}
    (h : ¬ (a ≤ b ∧ b < a + bs.length)) : (m.writeBlock a bs).read b = m.read b := by
  induction bs generalizing m a with
  | nil => rfl
  | cons c bs ih =>
    rw [List.length_cons] at h
    rw [Memory.writeBlock, ih _ _ (by omega), Memory.read_write_of_ne m c (by omega)]

theorem byte_mem_indexBytes {s : State} {n a : Nat} :
    .byte a ∈ indexBytes s n ↔ s.i.toNat ≤ a ∧ a < s.i.toNat + n := by
  simp only [indexBytes, List.mem_map, List.mem_range, Part.byte.injEq, State.indexAddr]
  exact ⟨by rintro ⟨k, hk, rfl⟩; omega, fun h => ⟨a - s.i.toNat, by omega, by omega⟩⟩

/-- The frame of a block store at I. -/
theorem onlyChanges_writeBlock {may : List Part} (s : State) (bs : List Byte)
    (h : indexBytes s bs.length ⊆ may) :
    OnlyChanges may s (s.writeMem (s.mem.writeBlock (s.indexAddr 0) bs)) :=
  (OnlyChanges.refl s).writeMem fun _ ha =>
    s.mem.read_writeBlock_of_not_mem _ bs fun hr => ha (h (byte_mem_indexBytes.2 hr))

/-! ## The frame of every instruction -/

/-- What the effect of an instruction may change besides PC and V. -/
def otherParts (i : Instr) (s : State) : List Part :=
  match i with
  | .cls | .drw _ _ _ => [.fb]
  | .ret => [.sp]
  | .call _ => .sp :: ((List.finRange 16).filter fun k => k.val = s.sp.val).map .slot
  | .ldI _ | .addIVx _ | .ldFVx _ => [.i]
  | .rnd _ _ => [.draws]
  | .ldVxK _ => [.wait]
  | .ldDtVx _ => [.dt]
  | .ldStVx _ => [.st]
  | .ldBVx _ => indexBytes s 3
  | .ldMemVx x => indexBytes s (x.toNat + 1)
  | _ => []

/-- What the effect of an instruction may change: PC, the registers of `writesV`, and the rest. -/
def effectParts (i : Instr) (s : State) : List Part := .pc :: ((writesV i).map .reg ++ otherParts i s)

theorem pc_mem_effectParts (i : Instr) (s : State) : .pc ∈ effectParts i s := by simp [effectParts]

theorem reg_mem_effectParts {i : Instr} {s : State} {r : RegIdx} (h : r ∈ writesV i) :
    .reg r ∈ effectParts i s := by
  simp [effectParts, h]

theorem mem_effectParts_of_other {i : Instr} {s : State} {p : Part} (h : p ∈ otherParts i s) :
    p ∈ effectParts i s := by
  simp [effectParts, h]

theorem ExecEffect.onlyChanges {i : Instr} {s t : State} (e : ExecEffect i s t) :
    OnlyChanges (effectParts i s) s t := by
  have pc := pc_mem_effectParts i s
  have other (p : Part) (h : p ∈ otherParts i s) := mem_effectParts_of_other h
  have reg (r : RegIdx) (h : r ∈ writesV i) := reg_mem_effectParts (s := s) h
  have start := OnlyChanges.refl (may := effectParts i s) s
  cases i <;> simp only [ExecEffect] at e
  case cls => subst e; exact (start.writeFB _ (other _ (by simp [otherParts]))).advance pc
  case ret =>
    obtain ⟨a, u, hpop, rfl⟩ := e
    exact (start.popAddr hpop (other _ (by simp [otherParts]))).jumpTo _ pc
  case call n =>
    obtain ⟨u, hpush, rfl⟩ := e
    exact (start.pushPC hpush (other _ (by simp [otherParts]))
      fun k hk => other _ (by simp [otherParts, hk])).jumpTo _ pc
  case jp | jpV0 => subst e; exact start.jumpTo _ pc
  case seImm | sneImm | seReg | sneReg | skp | sknp => obtain ⟨c, rfl⟩ := e; exact start.skipIf c pc
  case ldImm | addImm | ldReg | orReg | andReg | xorReg | ldVxDt =>
    obtain ⟨b, rfl⟩ := e
    exact (start.writeV b (reg _ (by simp [writesV]))).advance pc
  case addReg | sub | shr | subn | shl =>
    obtain ⟨b, f, rfl⟩ := e
    exact ((start.writeV b (reg _ (by simp [writesV]))).writeFlag f (reg _ (by simp [writesV]))).advance pc
  case ldI | addIVx | ldFVx =>
    obtain ⟨w, rfl⟩ := e
    exact (start.writeI w (other _ (by simp [otherParts]))).advance pc
  case rnd =>
    subst e
    exact ((start.countDraw (other _ (by simp [otherParts]))).writeV _ (reg _ (by simp [writesV]))).advance pc
  case drw =>
    obtain ⟨-, rfl⟩ := e
    exact ((start.writeFB _ (other _ (by simp [otherParts]))).writeFlag _ (reg _ (by simp [writesV]))).advance pc
  case ldVxK =>
    obtain ⟨k, -, rfl⟩ := e
    exact ((start.writeWait _ (other _ (by simp [otherParts]))).writeV _ (reg _ (by simp [writesV]))).advance pc
  case ldDtVx => subst e; exact (start.writeDT _ (other _ (by simp [otherParts]))).advance pc
  case ldStVx => subst e; exact (start.writeST _ (other _ (by simp [otherParts]))).advance pc
  case ldBVx => obtain ⟨-, rfl⟩ := e; exact OnlyChanges.advance (onlyChanges_writeBlock s _ other) pc
  case ldMemVx =>
    obtain ⟨-, rfl⟩ := e
    exact (onlyChanges_writeBlock s _ (by rw [State.length_regsUpTo]; exact other)).advance pc
  case ldVxMem x =>
    obtain ⟨-, rfl⟩ := e
    refine (start.writeRegsFrom _ fun j hj => reg _ ?_).advance pc
    rw [Memory.length_readBlock] at hj
    exact List.mem_map.2 ⟨0 + j, List.mem_range.2 (by omega), rfl⟩
  all_goals subst e; exact start.advance pc

/-- The frame of every instruction, faults and waits included. -/
theorem exec_onlyChanges {i : Instr} {s t : State} (h : exec i s = .next t) :
    OnlyChanges (.halt :: effectParts i s) s t := by
  rcases exec_cases h with ⟨k, a, rfl, -⟩ | ⟨x, rfl, -, rfl⟩ | e
  · exact (OnlyChanges.refl s).raiseFault k _ a (by simp)
  · exact (OnlyChanges.refl s).writeWait _ (by simp [effectParts, otherParts])
  · exact e.onlyChanges.mono (List.subset_cons_self _ _)

end Sys2Proof.Machine
end

section
/-! PROOFS. The display (spec/41_display.md R140, R141): CLS, the pixels and the collision of a draw, and a second
draw of the same sprite. -/

open Sys2Proof.Claims

namespace Sys2Proof

/-- The one word of a well-formed instruction. -/
theorem decodeWord_eq_iff {i : Instr} (hi : i.wellFormed = true) {w : Word} : decodeWord w = i ↔ w = encode i := by
  constructor
  · rintro rfl
    exact (encodeDecodeRoundTrip w).1.symm
  · rintro rfl
    exact decodeEncodeRoundTrip i hi

end Sys2Proof

namespace Sys2Proof.Machine

theorem exec_cls (s : State) : exec .cls s = .next (s.writeFB 0#2048).advance := rfl

/-- Settles O14: its word is the one that encodes it, and its effect is a blank framebuffer and an advance. -/
theorem clsClearsTheFramebuffer : Obligations.ClsClearsTheFramebuffer := by
  refine ⟨fun w => decodeWord_eq_iff rfl, fun s => ⟨_, exec_cls s, fun p _ => BitVec.getLsbD_zero, rfl, ?_⟩⟩
  exact ((OnlyChanges.refl s).writeFB _ (by simp)).advance (by simp)

/-! ## The bound check (spec/20_memory.md R64) -/

theorem State.outOfRange_eq_false_iff {s : State} {n : Nat} :
    s.outOfRange n = false ↔ n = 0 ∨ s.i.toNat + (n - 1) ≤ 0xFFF := by
  rw [← Bool.not_eq_true, State.outOfRange_iff, Config.maxAddr]
  omega

theorem withIndexAccess_of_inRange {s : State} {n : Nat} (h : s.outOfRange n = false) (a : Access) (w : Word)
    (e : State) : withIndexAccess a w n s e = .next e := by
  simp [withIndexAccess, h]

theorem withIndexAccess_of_outOfRange {s : State} {n : Nat} (h : s.outOfRange n = true) (a : Access) (w : Word)
    (e : State) :
    withIndexAccess a w n s e = .next (s.raiseFault (.address a) (some w) (some s.faultAddr)) := by
  simp [withIndexAccess, h]

theorem outOfRange_of_spriteInRange {s : State} {n : Nibble} (h : SpriteInRange s n) :
    s.outOfRange n.toNat = false := by
  refine State.outOfRange_eq_false_iff.2 ?_
  rcases h with rfl | h
  · exact .inl rfl
  · omega

/-! ## A draw -/

/-- The pixels a DRW covers, with the sprite's bit of each. -/
def State.sprite (s : State) (x y : RegIdx) (n : Nibble) : List (Nat × Bool) :=
  spritePixels (s.readV x) (s.readV y) (s.mem.readBlock (s.indexAddr 0) n.toNat)

/-- The state after a DRW in range. -/
def State.afterDraw (s : State) (x y : RegIdx) (n : Nibble) : State :=
  ((s.writeFB (s.drawSprite x y n).1).writeFlag (s.drawSprite x y n).2).advance

theorem exec_drw_of_inRange {s : State} {n : Nibble} (h : SpriteInRange s n) (x y : RegIdx) :
    exec (.drw x y n) s = .next (s.afterDraw x y n) :=
  withIndexAccess_of_inRange (outOfRange_of_spriteInRange h) _ _ _

theorem onlyChanges_afterDraw (s : State) (x y : RegIdx) (n : Nibble) :
    OnlyChanges [.fb, .reg 0xF#4, .pc] s (s.afterDraw x y n) :=
  (((OnlyChanges.refl s).writeFB _ (by simp)).writeFlag _ (by simp)).advance (by simp)

theorem nodup_sprite (s : State) (x y : RegIdx) (n : Nibble) : ((s.sprite x y n).map Prod.fst).Nodup := by
  refine nodup_spritePixels _ _ _ ?_
  rw [Memory.length_readBlock]
  omega

theorem lt_of_mem_sprite {s : State} {x y : RegIdx} {n : Nibble} {q : Nat × Bool} (h : q ∈ s.sprite x y n) :
    q.1 < 2048 :=
  spritePixels_lt h

/-- The statements' SpriteCovers is membership among the pixels the model draws. -/
theorem mem_sprite_iff_covers {s : State} {x y : RegIdx} {n : Nibble} {px py : Nat} (hx : px < 64) :
    (py * 64 + px, true) ∈ s.sprite x y n ↔ SpriteCovers s x y n px py := by
  simp only [State.sprite, mem_spritePixels, SpriteCovers, Memory.length_readBlock, Memory.getElem_readBlock,
    State.indexAddr, Prod.mk.injEq, pixelIndex, Config.fbWidth, exists_prop, Nat.add_zero]
  refine exists_congr fun i => and_congr_right fun _ => exists_congr fun j => and_congr_right fun _ => ?_
  rw [← and_assoc, eq_comm (a := true)]
  refine and_congr_left' ?_
  omega

theorem pixel_afterDraw (s : State) (x y : RegIdx) (n : Nibble) {p : Nat} (hp : p < 2048) :
    (s.afterDraw x y n).pixel p = (s.pixel p ^^ decide ((p, true) ∈ s.sprite x y n)) :=
  getLsbD_foldl_blitPixel _ _ (nodup_sprite s x y n) p hp

theorem collision_drawSprite (s : State) (x y : RegIdx) (n : Nibble) :
    (s.drawSprite x y n).2 = true ↔ ∃ p < 2048, s.pixel p = true ∧ (p, true) ∈ s.sprite x y n := by
  have collision : (s.drawSprite x y n).2 = (s.sprite x y n).any fun q => q.2 && s.pixel q.1 :=
    (snd_foldl_blitPixel _ (s.fb, false) (nodup_sprite s x y n) fun q => lt_of_mem_sprite).trans (Bool.false_or _)
  rw [collision, List.any_eq_true]
  constructor
  · rintro ⟨⟨p, b⟩, hq, h⟩
    obtain ⟨rfl, hp⟩ : b = true ∧ s.pixel p = true := by simpa using h
    exact ⟨p, lt_of_mem_sprite hq, hp, hq⟩
  · rintro ⟨p, -, hp, hq⟩
    exact ⟨(p, true), hq, by simp [hp]⟩

/-! ## VF as a flag -/

theorem flagByte_eq_one_iff (f : Bool) : flagByte f = 1#8 ↔ f = true := by cases f <;> decide

theorem flagByte_eq_one_or_zero (f : Bool) : flagByte f = 1#8 ∨ flagByte f = 0#8 := by cases f <;> decide

theorem readV_vf_afterDraw (s : State) (x y : RegIdx) (n : Nibble) :
    (s.afterDraw x y n).readV 0xF#4 = flagByte (s.drawSprite x y n).2 := by
  simp [State.afterDraw]

theorem flag_afterDraw_iff (s : State) (x y : RegIdx) (n : Nibble) :
    (s.afterDraw x y n).readV 0xF#4 = 1#8 ↔ ∃ p < 2048, s.pixel p = true ∧ (p, true) ∈ s.sprite x y n := by
  rw [readV_vf_afterDraw, flagByte_eq_one_iff, collision_drawSprite]

theorem flag_afterDraw_one_or_zero (s : State) (x y : RegIdx) (n : Nibble) :
    (s.afterDraw x y n).readV 0xF#4 = 1#8 ∨ (s.afterDraw x y n).readV 0xF#4 = 0#8 := by
  rw [readV_vf_afterDraw]
  exact flagByte_eq_one_or_zero _

/-! ## The statements -/

theorem pixel_afterDraw_iff_covers (s : State) (x y : RegIdx) (n : Nibble) {px py : Nat} (hx : px < 64)
    (hy : py < 32) :
    (s.afterDraw x y n).pixel (py * 64 + px) = true ↔
      ¬ (s.pixel (py * 64 + px) = true ↔ SpriteCovers s x y n px py) := by
  rw [pixel_afterDraw s x y n (by omega), ← mem_sprite_iff_covers hx]
  cases s.pixel (py * 64 + px) <;> simp

/-- Settles O15: a draw flips the pixels of the sprite, and its collision is a flipped pixel that was 1. -/
theorem drwXorsTheSprite : Obligations.DrwXorsTheSprite := by
  intro x y n s h
  refine ⟨_, exec_drw_of_inRange h x y, fun px hx py hy => pixel_afterDraw_iff_covers s x y n hx hy,
    flag_afterDraw_one_or_zero s x y n, ?_, rfl, onlyChanges_afterDraw s x y n⟩
  rw [flag_afterDraw_iff]
  constructor
  · rintro ⟨p, hp, hset, hmem⟩
    have coords : p / 64 * 64 + p % 64 = p := Nat.div_add_mod' p 64
    refine ⟨p % 64, by omega, p / 64, by omega, by rwa [coords], ?_⟩
    rwa [← mem_sprite_iff_covers (by omega), coords]
  · rintro ⟨px, hx, py, hy, hset, hcov⟩
    exact ⟨_, by omega, hset, (mem_sprite_iff_covers hx).2 hcov⟩

/-- A draw leaves the sprite's bytes and place, so the same DRW draws the same sprite again. -/
theorem sprite_afterDraw {s : State} {x y : RegIdx} {n : Nibble} (hx : (s.afterDraw x y n).readV x = s.readV x)
    (hy : (s.afterDraw x y n).readV y = s.readV y) : (s.afterDraw x y n).sprite x y n = s.sprite x y n := by
  unfold State.sprite
  rw [hx, hy]
  rfl

/-- Settles O16: the second draw flips the same pixels back, and collides exactly where the first one set one. -/
theorem drwTwiceRestoresTheFramebuffer : Obligations.DrwTwiceRestoresTheFramebuffer := by
  intro x y n s h
  refine ⟨_, exec_drw_of_inRange h x y, fun hx hy => ?_⟩
  have again : SpriteInRange (s.afterDraw x y n) n := h
  have same := sprite_afterDraw hx hy
  refine ⟨_, exec_drw_of_inRange again x y, ?_, ?_⟩
  · refine BitVec.eq_of_getLsbD_eq fun p hp => ?_
    have twice := pixel_afterDraw (s.afterDraw x y n) x y n hp
    rw [same, pixel_afterDraw s x y n hp, Bool.xor_assoc, Bool.xor_self, Bool.xor_false] at twice
    exact twice
  · rw [flag_afterDraw_iff, same]
    refine exists_congr fun p => and_congr_right fun hp => ?_
    rw [pixel_afterDraw s x y n hp]
    cases s.pixel p <;> simp

end Sys2Proof.Machine
end

section
/-! PROOFS. The rules over all instructions: which of them write V, I, SP, the framebuffer and memory
(spec/10_state.md R23, R27, R28, R33; spec/20_memory.md R60). -/

open Sys2Proof.Claims

namespace Sys2Proof.Machine

/-! ## A part that changed is one the instruction may write -/

theorem reg_not_mem_otherParts (i : Instr) (s : State) (r : RegIdx) : .reg r ∉ otherParts i s := by
  cases i <;> simp [otherParts, indexBytes]

theorem mem_effectParts_of_changed {i : Instr} {s t : State} {p : Part} (h : exec i s = .next t)
    (hp : ¬ SameAt s t p) (hhalt : p ≠ .halt) : p ∈ effectParts i s := by
  by_contra hn
  exact hp ((exec_onlyChanges h).sameAt (by simp [hhalt, hn]))

theorem mem_otherParts_of_changed {i : Instr} {s t : State} {p : Part} (h : exec i s = .next t)
    (hp : ¬ SameAt s t p) (hhalt : p ≠ .halt) (hpc : p ≠ .pc) (hreg : ∀ r, .reg r ≠ p) :
    p ∈ otherParts i s := by
  have hmem := mem_effectParts_of_changed h hp hhalt
  simpa [effectParts, hpc, hreg] using hmem

theorem reg_mem_writesV_of_changed {i : Instr} {s t : State} {r : RegIdx} (h : exec i s = .next t)
    (hr : t.readV r ≠ s.readV r) : r ∈ writesV i := by
  have hmem := mem_effectParts_of_changed (p := .reg r) h hr (by simp)
  simpa [effectParts, reg_not_mem_otherParts] using hmem

/-! ## The statements -/

/-- Settles O43: the registers in an instruction's frame are those of `writesV`. -/
theorem onlyListedInstructionsWriteV : Obligations.OnlyListedInstructionsWriteV := fun _ _ _ _ h hr =>
  by_contra fun hne => hr (reg_mem_writesV_of_changed h hne)

/-- Settles O44: I stands in the frames of these three alone. -/
theorem onlyThreeInstructionsWriteI : Obligations.OnlyThreeInstructionsWriteI := by
  intro i s t h hne
  have hmem := mem_otherParts_of_changed (p := .i) h hne (by simp) (by simp) (by simp)
  cases i
  case ldI nnn => exact .inl ⟨nnn, rfl⟩
  case addIVx x => exact .inr ⟨x, .inl rfl⟩
  case ldFVx x => exact .inr ⟨x, .inr rfl⟩
  all_goals simp [otherParts, indexBytes] at hmem

/-- An instruction that changed a part other than Wait and Halt neither faulted nor entered a key wait. -/
theorem execEffect_of_changed {i : Instr} {s t : State} {p : Part} (h : exec i s = .next t)
    (hp : ¬ SameAt s t p) (hhalt : p ≠ .halt) (hwait : p ≠ .wait) : ExecEffect i s t := by
  rcases exec_cases h with ⟨k, a, rfl, -⟩ | ⟨x, -, -, rfl⟩ | e
  · have frame := (OnlyChanges.refl s).raiseFault k (some (encode i)) a (List.mem_singleton_self _)
    exact absurd (frame.sameAt (by simpa using hhalt)) hp
  · have frame := (OnlyChanges.refl s).writeWait (some x) (List.mem_singleton_self _)
    exact absurd (frame.sameAt (by simpa using hwait)) hp
  · exact e

/-- Settles O45: SP stands in the frames of these two alone, and moves with a push or a pop. -/
theorem onlyCallAndRetMoveSP : Obligations.OnlyCallAndRetMoveSP := by
  refine fun i s t h => ⟨Nat.le_of_lt_succ t.sp.isLt, fun hne => ?_⟩
  have hmem := mem_otherParts_of_changed (p := .sp) h hne (by simp) (by simp) (by simp)
  have effect := execEffect_of_changed (p := .sp) h hne (by simp) (by simp)
  cases i
  case call nnn =>
    obtain ⟨u, hpush, rfl⟩ := effect
    obtain ⟨_, rfl⟩ := State.pushPC_eq_some hpush
    exact .inl ⟨nnn, rfl, rfl⟩
  case ret =>
    obtain ⟨a, u, hpop, rfl⟩ := effect
    obtain ⟨hpos, -, rfl⟩ := State.popAddr_eq_some hpop
    exact .inr ⟨rfl, Nat.succ_pred hpos⟩
  all_goals simp [otherParts, indexBytes] at hmem

/-- Settles O46: the framebuffer stands in the frames of these two alone, which leave it blank and drawn on. -/
theorem onlyClsAndDrwWriteFB : Obligations.OnlyClsAndDrwWriteFB := by
  refine ⟨fun i s t h hne => ?_, fun s => rfl⟩
  have hmem := mem_otherParts_of_changed (p := .fb) h hne (by simp) (by simp) (by simp)
  have effect := execEffect_of_changed (p := .fb) h hne (by simp) (by simp)
  cases i
  case cls =>
    obtain rfl := effect
    exact .inl ⟨rfl, fun p _ => BitVec.getLsbD_zero⟩
  case drw x y n =>
    obtain ⟨-, rfl⟩ := effect
    exact .inr ⟨x, y, n, rfl, fun px hx py hy => pixel_afterDraw_iff_covers s x y n hx hy⟩
  all_goals simp [otherParts, indexBytes] at hmem

/-- Settles O47: bytes stand in the frames of the two stores alone, each at its own addresses from I on. -/
theorem onlyTwoInstructionsWriteMemory : Obligations.OnlyTwoInstructionsWriteMemory := by
  intro i s t a _ h hne
  have hmem := mem_otherParts_of_changed (p := .byte a) h hne (by simp) (by simp) (by simp)
  cases i
  case ldBVx x =>
    obtain ⟨lo, hi⟩ := byte_mem_indexBytes.1 hmem
    exact ⟨x, .inl ⟨rfl, lo, by omega⟩⟩
  case ldMemVx x =>
    obtain ⟨lo, hi⟩ := byte_mem_indexBytes.1 hmem
    exact ⟨x, .inr ⟨rfl, lo, by omega⟩⟩
  all_goals simp [otherParts] at hmem

end Sys2Proof.Machine
end

section
/-! PROOFS. The step, the key wait and the faults (spec/40_engine_cycle.md R120-R128; spec/60_exceptions.md R240-R262;
spec/45_random_input_timers.md R224). -/

open Sys2Proof.Claims

namespace Sys2Proof.Machine

/-! ## One equation for each way a step goes -/

theorem step_of_halt {s : State} {r : FaultRecord} (h : s.halt = some r) : step s = .next s := by
  simp [step, h, haltedStep]

theorem step_of_wait {s : State} {x : RegIdx} (hh : s.halt = none) (hw : s.wait = some x) :
    step s = keyWaitResume x s := by
  simp [step, hh, hw]

theorem step_of_fetch_none {s : State} (hh : s.halt = none) (hw : s.wait = none) (hf : s.fetch = none) :
    step s = fetchFault s := by
  simp [step, hh, hw, hf]

theorem step_of_fetch {s : State} {w : Word} (hh : s.halt = none) (hw : s.wait = none) (hf : s.fetch = some w) :
    step s = exec (decodeWord w) s := by
  simp [step, hh, hw, hf]

/-- Every instruction has a next state. -/
theorem exec_next (i : Instr) (s : State) : ∃ t, exec i s = .next t := by
  obtain ⟨t, ht, -⟩ := exec_withTimersKeys s s.dt s.st s.keys i (fun _ => rfl) (fun _ _ => rfl)
  exact ⟨t, ht⟩

theorem apply_event_step {s t : State} (h : step s = .next t) : Event.step.apply s = t := by
  simp [Event.apply, h]

/-! ## The host's operations and the records of the engine -/

/-- A load, rejected or not, leaves the state with a block, maybe empty, written to memory. -/
theorem State.load_eq_writeMem (s : State) (bytes : List Byte) :
    ∃ a bs, (s.load bytes).2 = s.writeMem (s.mem.writeBlock a bs) := by
  unfold State.load
  split
  · exact ⟨0, [], rfl⟩
  · exact ⟨_, _, rfl⟩

/-- No host operation but reset touches Halt and Wait (spec/60_exceptions.md R246, R259). -/
theorem HostOp.apply_halt_wait (s : State) {op : HostOp} (h : op ≠ .reset) :
    (op.apply s).2.halt = s.halt ∧ (op.apply s).2.wait = s.wait := by
  cases op
  case reset => exact absurd rfl h
  case load bytes =>
    obtain ⟨a, bs, e⟩ := s.load_eq_writeMem bytes
    simp [HostOp.apply, e]
  case tick | refreshKeys | readFramebuffer | readSoundTimer | readFault => exact ⟨rfl, rfl⟩

/-! ## Fetch and step -/

/-- Settles O6: the bytes decoded are those the fetch reads. -/
theorem stepRunsDecodedInstruction : Obligations.StepRunsDecodedInstruction := by
  intro s i hh hw hpc hd
  obtain ⟨rfl, -⟩ := Prod.mk.inj (Except.ok.inj hd)
  exact step_of_fetch hh hw (State.fetch_eq_some.2 ⟨hpc, rfl⟩)

/-- Settles O7: the word of two bytes has the first above the second. -/
theorem fetchIsBigEndian : Obligations.FetchIsBigEndian := fun _ hpc =>
  ⟨_, State.fetch_eq_some.2 ⟨hpc, rfl⟩, toNat_wordOfBytes _ _⟩

/-- Settles O8: with nothing to fetch, the step raises the fetch fault, which writes Halt alone. -/
theorem fetchBeyondMemoryFaults : Obligations.FetchBeyondMemoryFaults := fun s hh hw hpc =>
  ⟨_, step_of_fetch_none hh hw (State.fetch_eq_none.2 hpc), rfl,
    (OnlyChanges.refl s).raiseFault _ _ _ (by simp), rfl⟩

/-- Settles O9: a halted step is the identity, no host operation but reset writes Halt, and reset clears it. -/
theorem haltedStepChangesNothing : Obligations.HaltedStepChangesNothing := by
  intro s r hh
  refine ⟨step_of_halt hh, by simp [State.stepResult, hh], fun e he => ?_, rfl⟩
  cases e with
  | step => rwa [apply_event_step (step_of_halt hh)]
  | host op =>
    obtain ⟨halt, -⟩ := HostOp.apply_halt_wait s (op := op) (by rintro rfl; exact he rfl)
    exact halt.trans hh

/-- Settles O11: halted, waiting, fetching or executing, a step has a next state. -/
theorem everyStepHasANextState : Obligations.EveryStepHasANextState := by
  intro s
  rcases step_cases s with ⟨r, -, h⟩ | ⟨-, x, -, h⟩ | ⟨-, -, -, h⟩ | ⟨-, -, w, -, h⟩
  · exact ⟨s, h⟩
  · exact h ▸ keyWaitResume_next x s
  · exact ⟨_, h⟩
  · exact h ▸ exec_next _ s

/-! ## The key wait -/

theorem State.keySet_fin (s : State) (k : Fin 16) : s.keySet k.val = s.keys[k] := dif_pos k.isLt

theorem State.highestKeyBelow_eq_none_iff_keys {s : State} :
    s.highestKeyBelow 16 = none ↔ ∀ k : Fin 16, s.keys[k] = false := by
  rw [State.highestKeyBelow_eq_none]
  exact ⟨fun h k => (s.keySet_fin k).symm.trans (h k k.isLt),
    fun h k hk => (s.keySet_fin ⟨k, hk⟩).trans (h ⟨k, hk⟩)⟩

theorem State.highestKeyBelow_eq_some_of_keys {s : State} {k : Fin 16} (hk : s.keys[k] = true)
    (hmax : ∀ j : Fin 16, k < j → s.keys[j] = false) : s.highestKeyBelow 16 = some k.val :=
  State.highestKeyBelow_eq_some.2 ⟨k.isLt, (s.keySet_fin k).trans hk,
    fun j hj hj' => (s.keySet_fin ⟨j, hj'⟩).trans (hmax ⟨j, hj'⟩ hj)⟩

theorem exists_key_of_highestKeyBelow {s : State} {k : Nat} (h : s.highestKeyBelow 16 = some k) :
    ∃ j : Fin 16, s.keys[j] = true := by
  obtain ⟨hlt, hset, -⟩ := State.highestKeyBelow_eq_some.1 h
  exact ⟨⟨k, hlt⟩, (s.keySet_fin ⟨k, hlt⟩).symm.trans hset⟩

theorem exec_ldVxK (x : RegIdx) (s : State) : exec (.ldVxK x) s = keyWaitResume x s := rfl

/-- A key wait with no key set records itself. -/
theorem keyWaitResume_of_no_key (x : RegIdx) {s : State} (h : ∀ k : Fin 16, s.keys[k] = false) :
    keyWaitResume x s = .next (s.writeWait (some x)) := by
  simp [keyWaitResume, State.highestKeyBelow_eq_none_iff_keys.2 h]

theorem State.writeWait_self {s : State} {w : Option RegIdx} (h : s.wait = w) : s.writeWait w = s := by
  subst h; rfl

/-- A key wait completes with the highest set key. -/
theorem keyWaitResume_of_key (x : RegIdx) {s : State} {k : Fin 16} (hk : s.keys[k] = true)
    (hmax : ∀ j : Fin 16, k < j → s.keys[j] = false) :
    ∃ t, keyWaitResume x s = .next t ∧ t.readV x = BitVec.ofNat 8 k.val ∧ t.wait = none ∧
      t.pc = s.pc + 2#16 ∧ OnlyChanges [.reg x, .wait, .pc] s t ∧ t.halt = s.halt := by
  refine ⟨((s.writeWait none).writeV x (BitVec.ofNat 8 k.val)).advance, ?_, by simp, rfl, rfl, ?_, rfl⟩
  · simp [keyWaitResume, State.highestKeyBelow_eq_some_of_keys hk hmax]
  · exact (((OnlyChanges.refl s).writeWait _ (by simp)).writeV _ (by simp)).advance (by simp)

/-- Settles O10: a waiting step is the key wait again, which records what stands there already, or completes. -/
theorem waitingStepResumesKeyWait : Obligations.WaitingStepResumesKeyWait := by
  intro s x hh hw
  rw [step_of_wait hh hw]
  refine ⟨fun h => ⟨?_, by simp [State.stepResult, hh, hw]⟩, fun k hk hmax => ?_⟩
  · rw [keyWaitResume_of_no_key x h, State.writeWait_self hw]
  · obtain ⟨t, ht, hv, hwait, hpc, frame, hhalt⟩ := keyWaitResume_of_key x hk hmax
    exact ⟨t, ht, hv, hwait, hpc, frame, by simp [State.stepResult, hhalt, hh, hwait]⟩

/-- Settles O41: Fx0A is the key wait from its first check on. -/
theorem keyWaitCompletesOrSuspends : Obligations.KeyWaitCompletesOrSuspends := by
  intro x s
  rw [exec_ldVxK]
  refine ⟨fun k hk hmax => ?_, fun h => ⟨_, keyWaitResume_of_no_key x h, rfl, ?_⟩⟩
  · obtain ⟨t, ht, hv, hwait, hpc, frame, -⟩ := keyWaitResume_of_key x hk hmax
    exact ⟨t, ht, hv, hwait, hpc, frame⟩
  · exact (OnlyChanges.refl s).writeWait _ (by simp)

/-- What a step that began with no fault and ends in a key wait did: it recorded the wait and nothing else. -/
theorem step_enters_wait {s t : State} {x : RegIdx} (h : step s = .next t) (hh : t.halt = none)
    (hw : t.wait = some x) : t = s.writeWait (some x) := by
  rcases step_cases s with ⟨r, hr, e⟩ | ⟨-, y, -, e⟩ | ⟨-, -, -, e⟩ | ⟨-, hw', w, -, e⟩
  all_goals have hnext := e.symm.trans h
  · obtain rfl := Host.Outcome.next.inj hnext
    exact (State.writeWait_self hw).symm
  · rcases keyWaitResume_cases y s with ⟨k, -, e'⟩ | ⟨-, e'⟩
    all_goals obtain rfl := Host.Outcome.next.inj (e'.symm.trans hnext)
    · exact absurd hw (by simp)
    · rw [← hw]; rfl
  · obtain rfl := Host.Outcome.next.inj hnext
    exact absurd hh (by simp)
  · rcases exec_cases hnext with ⟨k, a, rfl, -⟩ | ⟨y, -, -, rfl⟩ | effect
    · exact absurd hh (by simp)
    · rw [← hw]; rfl
    · exact absurd (effect.wait_eq hw') (by simp [hw])

theorem stepResult_eq_waiting {s : State} (h : s.stepResult = .waitingForInput) :
    s.halt = none ∧ ∃ x, s.wait = some x := by
  unfold State.stepResult at h
  split at h
  · exact absurd h (by simp)
  · split at h
    · exact ⟨‹_›, _, ‹_›⟩
    · exact absurd h (by simp)

/-- Settles O12: a step that reports a wait left Halt clear and Wait set, so it recorded the wait alone. -/
theorem waitingResultChangesOnlyWait : Obligations.WaitingResultChangesOnlyWait := by
  intro s t h hr
  obtain ⟨hh, x, hw⟩ := stepResult_eq_waiting hr
  rw [step_enters_wait h hh hw]
  exact (OnlyChanges.refl s).writeWait _ (by simp)

/-! ## Entering and leaving the wait -/

/-- A step that enters a key wait where there was none executed an Fx0A that found no key. -/
theorem step_enters_wait_only_by_ldVxK {s t : State} {x : RegIdx} (h : step s = .next t) (hs : s.wait = none)
    (ht : t.wait = some x) :
    s.halt = none ∧ (∀ k : Fin 16, s.keys[k] = false) ∧ ∃ w, s.fetch = some w ∧ decodeWord w = .ldVxK x := by
  rcases step_cases s with ⟨r, hr, e⟩ | ⟨-, y, hy, -⟩ | ⟨-, -, -, e⟩ | ⟨hh, -, w, hf, e⟩
  · obtain rfl := Host.Outcome.next.inj (e.symm.trans h)
    exact absurd ht (by simp [hs])
  · exact absurd hy (by simp [hs])
  · obtain rfl := Host.Outcome.next.inj (e.symm.trans h)
    exact absurd ht (by simp [hs])
  · rcases exec_cases (e.symm.trans h) with ⟨k, a, rfl, -⟩ | ⟨y, hd, hk, rfl⟩ | effect
    · exact absurd ht (by simp [hs])
    · obtain rfl : y = x := by simpa using ht
      exact ⟨hh, State.highestKeyBelow_eq_none_iff_keys.1 hk, w, hf, hd⟩
    · exact absurd (effect.wait_eq hs) (by simp [ht])

/-- A step that leaves a key wait found a key. -/
theorem step_leaves_wait_only_by_key {s t : State} {x : RegIdx} (h : step s = .next t) (hs : s.wait = some x)
    (ht : t.wait ≠ some x) : s.halt = none ∧ ∃ k : Fin 16, s.keys[k] = true := by
  rcases step_cases s with ⟨r, hr, e⟩ | ⟨hh, y, hy, e⟩ | ⟨-, hw, -, -⟩ | ⟨-, hw, -⟩
  · obtain rfl := Host.Outcome.next.inj (e.symm.trans h)
    exact absurd hs ht
  · rcases keyWaitResume_cases y s with ⟨k, hk, -⟩ | ⟨-, e'⟩
    · exact ⟨hh, exists_key_of_highestKeyBelow hk⟩
    · obtain rfl := Host.Outcome.next.inj ((e.trans e').symm.trans h)
      exact absurd (hy.symm.trans hs) ht
  · exact absurd hs (by simp [hw])
  · exact absurd hs (by simp [hw])

/-- Settles O50: steps enter and leave the wait as above, and no host operation but reset writes it. -/
theorem waitIsEnteredAndLeftAsStated : Obligations.WaitIsEnteredAndLeftAsStated := by
  refine ⟨fun e s x hs ht => ?_, fun e s x hs ht => ?_, fun s x hs hk => ?_⟩
  · cases e with
    | step =>
      obtain ⟨t, h⟩ := everyStepHasANextState s
      rw [apply_event_step h] at ht
      exact ⟨rfl, step_enters_wait_only_by_ldVxK h hs ht⟩
    | host op =>
      by_cases reset : op = .reset
      · subst reset
        exact absurd ht (by simp [Event.apply, HostOp.apply, State.hostReset, State.resetWith])
      · obtain ⟨-, kept⟩ := HostOp.apply_halt_wait s reset
        exact absurd (kept.symm.trans ht) (by simp [hs])
  · cases e with
    | step =>
      obtain ⟨t, h⟩ := everyStepHasANextState s
      rw [apply_event_step h] at ht
      exact .inl ⟨rfl, step_leaves_wait_only_by_key h hs ht⟩
    | host op =>
      by_cases reset : op = .reset
      · exact .inr (congrArg _ reset)
      · obtain ⟨-, kept⟩ := HostOp.apply_halt_wait s reset
        exact absurd (kept.trans hs) ht
  · refine apply_event_step ?_
    cases hh : s.halt with
    | some r => exact step_of_halt hh
    | none => rw [step_of_wait hh hs, keyWaitResume_of_no_key x hk, State.writeWait_self hs]

/-! ## Faults -/

/-- A step that faults found no word to fetch, or raised a fault of the fetched instruction. -/
theorem step_faults {s t : State} {r : FaultRecord} (hh : s.halt = none) (h : step s = .next t)
    (hr : t.halt = some r) :
    (s.fetch = none ∧ t = s.raiseFault (.address .fetch) none (some s.pc.toNat)) ∨
    ∃ w k a, s.fetch = some w ∧ t = s.raiseFault k (some w) a ∧ ExecFault s k a := by
  rcases step_cases s with ⟨r', hr', -⟩ | ⟨-, x, -, e⟩ | ⟨-, -, hf, e⟩ | ⟨-, -, w, hf, e⟩
  · exact absurd hr' (by simp [hh])
  · rcases keyWaitResume_cases x s with ⟨k, -, e'⟩ | ⟨-, e'⟩
    all_goals
      obtain rfl := Host.Outcome.next.inj ((e.trans e').symm.trans h)
      exact absurd hr (by simp [hh])
  · exact .inl ⟨hf, Host.Outcome.next.inj (h.symm.trans e)⟩
  · rcases exec_cases (e.symm.trans h) with ⟨k, a, ht, hk⟩ | ⟨x, -, -, rfl⟩ | effect
    · rw [(encodeDecodeRoundTrip w).1] at ht
      exact .inr ⟨w, k, a, hf, ht, hk⟩
    · exact absurd hr (by simp [hh])
    · exact absurd hr (by simp [effect.halt_eq, hh])

/-- The record of a fetch fault follows the fault table. -/
theorem ofTable_fetch {pc : Word} (h : 4094 < pc.toNat) :
    FaultRecord.ofTable ⟨.address .fetch, FaultKind.code (.address .fetch), pc, none, some pc.toNat⟩ :=
  ⟨rfl, rfl, rfl, h⟩

theorem maxAddr_lt_faultAddr (s : State) : Config.maxAddr < s.faultAddr := Nat.le_max_right _ _

/-- The record of an instruction's fault follows the fault table. -/
theorem ExecFault.ofTable {s : State} {k : FaultKind} {a : Option Nat} (h : ExecFault s k a) (pc w : Word) :
    FaultRecord.ofTable ⟨k, k.code, pc, some w, a⟩ := by
  rcases h with ⟨rfl, rfl⟩ | ⟨rfl, rfl⟩ | ⟨rfl, rfl⟩ | ⟨rfl, rfl⟩
  · exact ⟨rfl, rfl, rfl⟩
  · exact ⟨rfl, rfl, rfl⟩
  · exact ⟨rfl, rfl, _, rfl, maxAddr_lt_faultAddr s⟩
  · exact ⟨rfl, rfl, _, rfl, maxAddr_lt_faultAddr s⟩

/-- Settles O13: both ways a step faults write Halt alone, with the record of the table. -/
theorem faultsArePreciseAndRecorded : Obligations.FaultsArePreciseAndRecorded := by
  intro s t r hh h hr
  rcases step_faults hh h hr with ⟨hf, rfl⟩ | ⟨w, k, a, hf, rfl, hk⟩
  · obtain rfl := Option.some.inj hr
    refine ⟨ofTable_fetch (State.fetch_eq_none.1 hf), rfl, hf.symm, ?_, by simp, ?_⟩
    · exact (OnlyChanges.refl s).raiseFault _ _ _ (by simp)
    · simp [FaultKind.code]
  · obtain rfl := Option.some.inj hr
    refine ⟨hk.ofTable s.pc w, rfl, hf.symm, (OnlyChanges.refl s).raiseFault _ _ _ (by simp), ?_⟩
    rcases hk with ⟨rfl, rfl⟩ | ⟨rfl, rfl⟩ | ⟨rfl, rfl⟩ | ⟨rfl, rfl⟩
    all_goals simp [FaultKind.code, State.faultAddr]

end Sys2Proof.Machine
end

section
/-! PROOFS. Call and return, the register and key skips, and the jump through V0 (spec/42_control_flow.md R151-R159;
spec/45_random_input_timers.md R221, R222). -/

open Sys2Proof.Claims

namespace Sys2Proof.Machine

/-! ## Call and return -/

/-- The state after a CALL with a free slot. -/
def State.afterCall (s : State) (nnn : Addr12) (h : s.sp.val < 16) : State :=
  State.jumpTo { s with stack := s.stack.set s.sp.val s.pc h, sp := ⟨s.sp.val + 1, by omega⟩ } nnn.toNat

/-- The state after a RET with a return address on the stack. -/
def State.afterRet (s : State) (_ : s.sp.val ≠ 0) : State :=
  State.jumpTo { s with sp := ⟨s.sp.val - 1, by omega⟩ } ((s.stack[s.sp.val - 1]'(by omega)).toNat + 2)

theorem exec_call_of_lt (nnn : Addr12) {s : State} (h : s.sp.val < 16) :
    exec (.call nnn) s = .next (s.afterCall nnn h) := by
  simp [exec, execCall, State.pushPC, h, State.afterCall]

theorem exec_call_of_full (nnn : Addr12) {s : State} (h : s.sp.val = 16) :
    exec (.call nnn) s = .next (s.raiseFault (.stack .overflow) (some (encode (.call nnn))) none) := by
  simp [exec, execCall, State.pushPC_eq_none.2 h]

theorem exec_ret_of_pos {s : State} (h : s.sp.val ≠ 0) : exec .ret s = .next (s.afterRet h) := by
  simp [exec, execRet, State.popAddr, h, State.afterRet]

theorem exec_ret_of_empty {s : State} (h : s.sp.val = 0) :
    exec .ret s = .next (s.raiseFault (.stack .underflow) (some (encode .ret)) none) := by
  simp [exec, execRet, State.popAddr_eq_none.2 h]

theorem afterCall_stack_sp (s : State) (nnn : Addr12) (h : s.sp.val < 16) :
    (s.afterCall nnn h).stack[s.sp.val] = s.pc :=
  Vector.getElem_set_self h

theorem ofNat_toNat_add_two (w : Word) : BitVec.ofNat 16 (w.toNat + 2) = w + 2#16 := by
  rw [BitVec.ofNat_add, BitVec.ofNat_toNat, BitVec.setWidth_eq]

theorem afterRet_pc (s : State) (h : s.sp.val ≠ 0) :
    (s.afterRet h).pc = s.stack[s.sp.val - 1]'(by omega) + 2#16 :=
  ofNat_toNat_add_two _

/-- Settles O18: a push below 16, and the overflow fault at 16. -/
theorem callPushesOrOverflows : Obligations.CallPushesOrOverflows := by
  refine fun nnn s => ⟨decodeEncodeRoundTrip (.call nnn) rfl, fun k hk => ?_, fun hfull => ?_⟩
  · have free : s.sp.val < 16 := hk ▸ k.isLt
    obtain ⟨k, hlt⟩ := k
    obtain rfl : k = s.sp.val := hk
    refine ⟨_, exec_call_of_lt nnn free, afterCall_stack_sp s nnn free, rfl, State.toNat_pc_jumpTo_addr12 _ nnn, ?_⟩
    refine ((OnlyChanges.refl s).pushPC (dif_pos free) (by simp) fun j hj => ?_).jumpTo _ (by simp)
    obtain rfl : j = ⟨s.sp.val, hlt⟩ := Fin.ext hj
    simp
  · exact ⟨_, _, exec_call_of_full nnn hfull, rfl, rfl, rfl, rfl, (OnlyChanges.refl s).raiseFault _ _ _ (by simp)⟩

/-- Settles O19: a pop above 0, and the underflow fault at 0. -/
theorem retPopsOrUnderflows : Obligations.RetPopsOrUnderflows := by
  refine ⟨fun w => decodeWord_eq_iff rfl, fun s => ⟨fun k hk => ?_, fun hempty => ?_⟩⟩
  · have pos : s.sp.val ≠ 0 := by omega
    obtain ⟨k, hlt⟩ := k
    obtain rfl : k = s.sp.val - 1 := by simp only at hk; omega
    refine ⟨_, exec_ret_of_pos pos, rfl, afterRet_pc s pos, ?_⟩
    exact ((OnlyChanges.refl s).popAddr (dif_neg pos) (by simp)).jumpTo _ (by simp)
  · exact ⟨_, _, exec_ret_of_empty hempty, rfl, rfl, rfl, rfl, (OnlyChanges.refl s).raiseFault _ _ _ (by simp)⟩

/-- No instruction writes a slot below SP: a CALL writes the one at SP, and no other instruction writes any. -/
theorem exec_stack_below {i : Instr} {s t : State} (h : exec i s = .next t) {k : Fin 16} (hk : k.val < s.sp.val) :
    t.stack[k] = s.stack[k] := by
  by_contra hne
  have hmem := mem_otherParts_of_changed (p := .slot k) h hne (by simp) (by simp) (by simp)
  cases i
  case call => simp [otherParts] at hmem; omega
  all_goals simp [otherParts, indexBytes] at hmem

/-- Code that stays above a frame keeps the frame's slots. -/
theorem RunsAbove.stack_below {base : Nat} {code : List Instr} {s t : State} (h : RunsAbove base code s t)
    (hs : base ≤ s.sp.val) {k : Fin 16} (hk : k.val < base) : t.stack[k] = s.stack[k] := by
  induction code generalizing s with
  | nil => exact congrArg (·.stack[k]) h
  | cons i rest ih =>
    obtain ⟨u, hu, -, hbase, hrest⟩ := h
    exact (ih hrest hbase).trans (exec_stack_below hu (Nat.lt_of_lt_of_le hk hs))

/-- Settles O23: the CALL's slot lies below the frame of the code it calls, so RET pops the CALL's own address. -/
theorem callReturnLaw : Obligations.CallReturnLaw := by
  intro nnn s t u code hs hcall hrun hsp
  obtain rfl := Host.Outcome.next.inj ((exec_call_of_lt nnn hs).symm.trans hcall)
  have hu : u.sp.val = s.sp.val + 1 := congrArg Fin.val hsp
  have pos : u.sp.val ≠ 0 := by omega
  have kept := RunsAbove.stack_below hrun le_rfl (k := ⟨s.sp.val, hs⟩) (Nat.lt_succ_self s.sp.val)
  have hsub : u.sp.val - 1 = s.sp.val := by omega
  refine ⟨_, exec_ret_of_pos pos, ?_, Fin.ext hsub⟩
  have top : u.stack[u.sp.val - 1]'(by omega) = s.pc := by
    simp only [hsub]
    exact kept.trans (afterCall_stack_sp s nnn hs)
  rw [afterRet_pc, top]

/-! ## Skips -/

theorem exec_seReg (x y : RegIdx) (s : State) :
    exec (.seReg x y) s = .next (s.skipIf (s.readV x == s.readV y)) := rfl

theorem exec_sneReg (x y : RegIdx) (s : State) :
    exec (.sneReg x y) s = .next (s.skipIf (s.readV x != s.readV y)) := rfl

/-- Settles O21: both are skips, on Vx equal to and different from Vy; the low nibble must be 0. -/
theorem registerSkips : Obligations.RegisterSkips := fun x y s =>
  ⟨decodeEncodeRoundTrip (.seReg x y) rfl, decodeEncodeRoundTrip (.sneReg x y) rfl,
    fun _ hn => ⟨decodeWord_formatXYN_unrec5 x y hn, decodeWord_formatXYN_unrec9 x y hn⟩,
    exec_skip_of_skipIf (exec_seReg x y s) beq_iff_eq, exec_skip_of_skipIf (exec_sneReg x y s) bne_iff_ne⟩

theorem exec_skp (x : RegIdx) (s : State) : exec (.skp x) s = .next (s.skipIf (s.keyPressed x)) := rfl

theorem exec_sknp (x : RegIdx) (s : State) : exec (.sknp x) s = .next (s.skipIf (!s.keyPressed x)) := rfl

theorem State.keyPressed_of_eq {s : State} {x : RegIdx} {k : Fin 16} (h : (s.readV x).toNat = k.val) :
    s.keyPressed x = s.keys[k] := by
  rw [State.keyPressed, h, State.keySet_fin]

/-- A value above 0x0F names no key (D9). -/
theorem State.keyPressed_of_gt {s : State} {x : RegIdx} (h : 15 < (s.readV x).toNat) : s.keyPressed x = false :=
  dif_neg (Nat.not_lt.2 h)

/-- Settles O39: both are skips on the key that Vx names, and a value above 15 names none. -/
theorem keySkips : Obligations.KeySkips := by
  refine fun x s => ⟨⟨_, exec_skp x s, onlyChanges_pc s _, fun k hk => ?_, fun hk => ?_⟩,
    ⟨_, exec_sknp x s, onlyChanges_pc s _, fun k hk => ?_, fun hk => ?_⟩⟩
  · rw [State.skipIf_pc, State.keyPressed_of_eq hk]
  · rw [State.skipIf_pc, State.keyPressed_of_gt hk, if_neg Bool.false_ne_true]
  · rw [State.skipIf_pc, State.keyPressed_of_eq hk]
    cases s.keys[k] <;> rfl
  · rw [State.skipIf_pc, State.keyPressed_of_gt hk, Bool.not_false, if_pos rfl]

/-! ## The jump through V0 -/

theorem exec_jpV0 (nnn : Addr12) (s : State) :
    exec (.jpV0 nnn) s = .next (s.jumpTo (nnn.toNat + (s.readV 0#4).toNat)) := rfl

/-- Settles O22: a 12-bit address plus a byte fits in PC. -/
theorem jpV0AddsWithoutWrapping : Obligations.JpV0AddsWithoutWrapping := by
  refine fun nnn s => ⟨_, exec_jpV0 nnn s, ?_, onlyChanges_pc s _⟩
  rw [State.jumpTo_pc, BitVec.toNat_ofNat]
  omega

end Sys2Proof.Machine
end

section
/-! PROOFS. Bitwise operations, arithmetic with a flag, shifts, the random byte, the sum of I, and the flags of all
instructions (spec/43_alu.md R170-R182; spec/44_index_memory.md R202; spec/45_random_input_timers.md R220;
spec/10_state.md R35). -/

open Sys2Proof.Claims

namespace Sys2Proof.Machine

/-! ## Bitwise operations -/

theorem exec_orReg (x y : RegIdx) (s : State) :
    exec (.orReg x y) s = writeResult x (s.readV x ||| s.readV y) s := rfl

theorem exec_andReg (x y : RegIdx) (s : State) :
    exec (.andReg x y) s = writeResult x (s.readV x &&& s.readV y) s := rfl

theorem exec_xorReg (x y : RegIdx) (s : State) :
    exec (.xorReg x y) s = writeResult x (s.readV x ^^^ s.readV y) s := rfl

theorem exec_bits_of_writeResult {i : Instr} {x : RegIdx} {b : Byte} {s : State} {f : Nat → Bool}
    (he : exec i s = writeResult x b s) (hb : ∀ k < 8, b.getLsbD k = f k) :
    ∃ t, exec i s = .next t ∧ (∀ k < 8, (t.readV x).getLsbD k = f k) ∧ t.pc = s.pc + 2#16 ∧
      OnlyChanges [.reg x, .pc] s t :=
  exec_result_of_writeResult (p := fun b => ∀ k < 8, b.getLsbD k = f k) he hb

/-- Settles O25: all three end in `writeResult`, with the operation bit by bit. -/
theorem bitwiseOperations : Obligations.BitwiseOperations := fun x y s =>
  ⟨exec_bits_of_writeResult (exec_orReg x y s) fun _ _ => BitVec.getLsbD_or,
    exec_bits_of_writeResult (exec_andReg x y s) fun _ _ => BitVec.getLsbD_and,
    exec_bits_of_writeResult (exec_xorReg x y s) fun _ _ => BitVec.getLsbD_xor⟩

/-! ## A result with a flag -/

/-- An instruction that ends in `writeResultFlag` completes with the flag in VF for every x, the result in Vx
unless x is VF, and PC at the next word, and moves nothing else (spec/43_alu.md R171, D6). -/
theorem exec_result_of_writeResultFlag {i : Instr} {x : RegIdx} {b : Byte} {f : Bool} {s : State}
    {p q : Byte → Prop} (he : exec i s = writeResultFlag x b f s) (hb : p b) (hf : q (flagByte f)) :
    ∃ t, exec i s = .next t ∧ (x ≠ 0xF#4 → p (t.readV x)) ∧ q (t.readV 0xF#4) ∧ t.pc = s.pc + 2#16 ∧
      OnlyChanges [.reg x, .reg 0xF#4, .pc] s t := by
  refine ⟨_, he, fun hx => ?_, by simpa using hf, rfl, ?_⟩
  · simpa [hx.symm] using hb
  · exact (((OnlyChanges.refl s).writeV _ (by simp)).writeFlag _ (by simp)).advance (by simp)

theorem flagByte_decide (p : Prop) [Decidable p] : flagByte (decide p) = if p then 1#8 else 0#8 := by
  simp [flagByte]

theorem exec_addReg (x y : RegIdx) (s : State) :
    exec (.addReg x y) s = writeResultFlag x (wrap8 ((s.readV x).toNat + (s.readV y).toNat))
      (carryOut (s.readV x) (s.readV y)) s := rfl

theorem exec_sub (x y : RegIdx) (s : State) :
    exec (.sub x y) s = writeResultFlag x (wrap8 (((s.readV x).toNat : Int) - (s.readV y).toNat))
      (strictlyGreater (s.readV x) (s.readV y)) s := rfl

theorem exec_subn (x y : RegIdx) (s : State) :
    exec (.subn x y) s = writeResultFlag x (wrap8 (((s.readV y).toNat : Int) - (s.readV x).toNat))
      (strictlyGreater (s.readV y) (s.readV x)) s := rfl

theorem exec_shr (x y : RegIdx) (s : State) :
    exec (.shr x y) s = writeResultFlag x (s.readV x >>> 1) (shiftedOutRight (s.readV x)) s := rfl

theorem exec_shl (x y : RegIdx) (s : State) :
    exec (.shl x y) s = writeResultFlag x (wrap8 ((s.readV x).toNat <<< 1 : Nat)) (shiftedOutLeft (s.readV x)) s := rfl

/-- Settles O26: the wrapped sum, and its carry. -/
theorem addWithCarryOut : Obligations.AddWithCarryOut := fun x y s =>
  exec_result_of_writeResultFlag (p := (·.toNat = _)) (q := (· = _)) (exec_addReg x y s)
    (toNat_wrap8_natCast ((s.readV x).toNat + (s.readV y).toNat)) (flagByte_decide _)

theorem toNat_wrap8_sub (a b : Byte) : (wrap8 ((a.toNat : Int) - b.toNat)).toNat = (a.toNat + 256 - b.toNat) % 256 := by
  rw [wrap8, BitVec.toNat_ofInt]
  omega

/-- Settles O27: the wrapped difference, and the strict comparison, with the operands either way round. -/
theorem subtractionsWithStrictFlag : Obligations.SubtractionsWithStrictFlag := fun x y s =>
  ⟨exec_result_of_writeResultFlag (p := (·.toNat = _)) (q := (· = _)) (exec_sub x y s)
      (toNat_wrap8_sub (s.readV x) (s.readV y)) (flagByte_decide _),
    exec_result_of_writeResultFlag (p := (·.toNat = _)) (q := (· = _)) (exec_subn x y s)
      (toNat_wrap8_sub (s.readV y) (s.readV x)) (flagByte_decide _)⟩

theorem toNat_shiftRight_one (b : Byte) : (b >>> 1).toNat = b.toNat / 2 := by
  rw [BitVec.toNat_ushiftRight, Nat.shiftRight_eq_div_pow, Nat.pow_one]

theorem toNat_wrap8_shiftLeft_one (b : Byte) : (wrap8 (b.toNat <<< 1 : Nat)).toNat = b.toNat * 2 % 256 := by
  rw [toNat_wrap8_natCast, Nat.shiftLeft_eq, Nat.pow_one]

theorem toNat_flagByte (f : Bool) : (flagByte f).toNat = f.toNat := by cases f <;> rfl

theorem toNat_flag_shiftedOutRight (b : Byte) : (flagByte (shiftedOutRight b)).toNat = b.toNat % 2 := by
  rw [toNat_flagByte, shiftedOutRight, BitVec.getLsbD, Nat.toNat_testBit, Nat.pow_zero, Nat.div_one]

theorem toNat_flag_shiftedOutLeft (b : Byte) : (flagByte (shiftedOutLeft b)).toNat = b.toNat / 128 := by
  rw [toNat_flagByte, shiftedOutLeft, BitVec.getLsbD, Nat.toNat_testBit]
  omega

/-- Settles O28: half with bit 0 in VF, and the wrapped double with bit 7 in VF; neither reads Vy. -/
theorem shiftsByOne : Obligations.ShiftsByOne := fun x y s =>
  ⟨exec_result_of_writeResultFlag (p := (·.toNat = _)) (q := (·.toNat = _)) (exec_shr x y s)
      (toNat_shiftRight_one (s.readV x)) (toNat_flag_shiftedOutRight (s.readV x)),
    exec_result_of_writeResultFlag (p := (·.toNat = _)) (q := (·.toNat = _)) (exec_shl x y s)
      (toNat_wrap8_shiftLeft_one (s.readV x)) (toNat_flag_shiftedOutLeft (s.readV x))⟩

/-! ## The flags of all instructions -/

theorem exec_vf_of_writeResultFlag {i : Instr} {x : RegIdx} {b : Byte} {f : Bool} {s : State}
    (he : exec i s = writeResultFlag x b f s) : ∃ t, exec i s = .next t ∧ t.readV 0xF#4 = flagByte f := by
  obtain ⟨t, ht, -, hf, -⟩ := exec_result_of_writeResultFlag (p := fun _ => True) (q := (· = _)) he trivial rfl
  exact ⟨t, ht, hf⟩

/-- Settles O29: the five flags of the ALU, the collision, and the registers no other instruction writes. -/
theorem flagWritersAndMeanings : Obligations.FlagWritersAndMeanings := by
  refine ⟨fun x y s => ?_, fun x y n s h => ?_, fun i s t _ hvf h => onlyListedInstructionsWriteV i s t _ h hvf⟩
  · simp only [← flagByte_decide, Bool.decide_eq_true]
    exact ⟨exec_vf_of_writeResultFlag (exec_addReg x y s), exec_vf_of_writeResultFlag (exec_sub x y s),
      exec_vf_of_writeResultFlag (exec_shr x y s), exec_vf_of_writeResultFlag (exec_subn x y s),
      exec_vf_of_writeResultFlag (exec_shl x y s)⟩
  · refine ⟨_, exec_drw_of_inRange h x y, flag_afterDraw_one_or_zero s x y n,
      (flag_afterDraw_iff s x y n).trans ?_⟩
    refine exists_congr fun p => and_congr_right fun hp => and_congr_right fun hset => ?_
    simp [pixel_afterDraw s x y n hp, hset]

/-! ## The random byte and the sum of I -/

theorem exec_rnd (x : RegIdx) (kk : Byte) (s : State) :
    exec (.rnd x kk) s = .next (s.countDraw.writeV x (s.nextDraw &&& kk)).advance := rfl

/-- Settles O38: the next draw masked, whatever its value, and the draw counted. -/
theorem rndIsAMaskedDraw : Obligations.RndIsAMaskedDraw := by
  refine fun x kk s => ⟨_, exec_rnd x kk s, by simp, rfl, fun k hk => by simp [hk], rfl, ?_⟩
  exact (((OnlyChanges.refl s).countDraw (by simp)).writeV _ (by simp)).advance (by simp)

theorem exec_addIVx (x : RegIdx) (s : State) :
    exec (.addIVx x) s = .next (s.writeI (wrap16 (s.i.toNat + (s.readV x).toNat))).advance := rfl

theorem toNat_wrap16_natCast (n : Nat) : (wrap16 n).toNat = n % 65536 := by
  rw [wrap16, BitVec.ofInt_natCast, BitVec.toNat_ofNat]

/-- Settles O31: I is written with the wrapped sum. -/
theorem addIWrapsAtSixteenBits : Obligations.AddIWrapsAtSixteenBits := fun x s =>
  exec_index_of_writeI (exec_addIVx x s) (toNat_wrap16_natCast (s.i.toNat + (s.readV x).toNat))

end Sys2Proof.Machine
end

section
/-! PROOFS. Memory through I and the loader (spec/44_index_memory.md R204-R207; spec/20_memory.md R63-R73;
spec/60_exceptions.md R242, R256). -/

open Sys2Proof.Claims

namespace Sys2Proof.Machine

theorem exec_drw (x y : RegIdx) (n : Nibble) (s : State) :
    exec (.drw x y n) s =
      withIndexAccess .dataRead (encode (.drw x y n)) n.toNat s (s.afterDraw x y n) := rfl

/-! ## A store of a block at I -/

/-- The state after a block was stored from I on. -/
def State.afterStore (s : State) (bs : List Byte) : State :=
  (s.writeMem (s.mem.writeBlock (s.indexAddr 0) bs)).advance

theorem exec_ldBVx (x : RegIdx) (s : State) :
    exec (.ldBVx x) s =
      withIndexAccess .dataWrite (encode (.ldBVx x)) 3 s (s.afterStore (bcdDigits (s.readV x))) := rfl

theorem exec_ldMemVx (x : RegIdx) (s : State) :
    exec (.ldMemVx x) s =
      withIndexAccess .dataWrite (encode (.ldMemVx x)) (x.toNat + 1) s (s.afterStore (s.regsUpTo x)) := rfl

theorem onlyChanges_afterStore (s : State) (bs : List Byte) :
    OnlyChanges (.pc :: indexBytes s bs.length) s (s.afterStore bs) :=
  OnlyChanges.advance (onlyChanges_writeBlock s bs (List.subset_cons_self _ _)) (by simp)

/-- A stored byte is read back where it is in memory and above the glyph ROM. -/
theorem read_afterStore {s : State} (hwf : s.mem.wf) {bs : List Byte} {k : Nat} (hk : k < bs.length)
    (hlo : 0x50 ≤ s.indexAddr k) (hhi : s.indexAddr k ≤ 0xFFF) :
    (s.afterStore bs).mem.read (s.indexAddr k) = bs.getD k 0 := by
  have at_k : s.indexAddr k - s.indexAddr 0 = k := Nat.add_sub_add_left _ _ _
  refine (Memory.read_writeBlock hwf _ bs _).trans ?_
  rw [if_pos ⟨Nat.add_le_add_left k.zero_le _, Nat.add_lt_add_left hk _, hlo, hhi⟩, at_k]

/-- No store reaches the glyph ROM (D4). -/
theorem read_afterStore_glyph (s : State) (bs : List Byte) {a : Nat} (ha : a < 0x50) :
    (s.afterStore bs).mem.read a = s.mem.read a := by
  have glyph : (s.afterStore bs).mem.glyph = s.mem.glyph := Memory.writeBlock_glyph _ _ _
  simp only [Memory.read_glyph _ ha, glyph]

theorem outOfRange_succ_eq_false {s : State} {n : Nat} (h : s.i.toNat + n ≤ 0xFFF) : s.outOfRange (n + 1) = false :=
  State.outOfRange_eq_false_iff.2 (.inr h)

theorem outOfRange_succ_eq_true {s : State} {n : Nat} (h : 0xFFF < s.i.toNat + n) : s.outOfRange (n + 1) = true :=
  (s.outOfRange_iff _).2 ⟨n.succ_pos, h⟩

theorem exec_ldMemVx_of_inRange {x : RegIdx} {s : State} (h : s.i.toNat + x.toNat ≤ 0xFFF) :
    exec (.ldMemVx x) s = .next (s.afterStore (s.regsUpTo x)) :=
  (exec_ldMemVx x s).trans (withIndexAccess_of_inRange (outOfRange_succ_eq_false h) _ _ _)

theorem exec_ldBVx_of_inRange {x : RegIdx} {s : State} (h : s.i.toNat + 2 ≤ 0xFFF) :
    exec (.ldBVx x) s = .next (s.afterStore (bcdDigits (s.readV x))) :=
  (exec_ldBVx x s).trans (withIndexAccess_of_inRange (outOfRange_succ_eq_false h) _ _ _)

theorem toNat_ofNat_of_lt {w n : Nat} (h : n < 2 ^ w) : (BitVec.ofNat w n).toNat = n := by
  rw [BitVec.toNat_ofNat, Nat.mod_eq_of_lt h]

/-- Settles O32: the block of the three digits, stored from I on. -/
theorem ldBStoresDecimalDigits : Obligations.LdBStoresDecimalDigits := by
  intro x s hwf h
  have byte (k : Nat) (hk : k < 3) (hlo : 0x50 ≤ s.indexAddr k) :=
    read_afterStore (bs := bcdDigits (s.readV x)) hwf hk hlo (by unfold State.indexAddr; omega)
  have small := (s.readV x).isLt
  refine ⟨_, exec_ldBVx_of_inRange h, fun hlo => ?_, fun hlo => ?_, fun hlo => ?_,
    fun a ha => read_afterStore_glyph s _ ha, rfl, onlyChanges_afterStore s (bcdDigits _)⟩
  · exact (congrArg BitVec.toNat (byte 0 (by decide) hlo)).trans (toNat_ofNat_of_lt (by omega))
  · exact (congrArg BitVec.toNat (byte 1 (by decide) hlo)).trans (toNat_ofNat_of_lt (by omega))
  · exact (congrArg BitVec.toNat (byte 2 (by decide) hlo)).trans (toNat_ofNat_of_lt (by omega))

/-- A stored register is read back where it is in memory and above the glyph ROM. -/
theorem read_afterStore_regsUpTo {x k : RegIdx} {s : State} (hwf : s.mem.wf) (h : s.i.toNat + x.toNat ≤ 0xFFF)
    (hk : k.toNat ≤ x.toNat) (hlo : 0x50 ≤ s.indexAddr k.toNat) :
    (s.afterStore (s.regsUpTo x)).mem.read (s.indexAddr k.toNat) = s.readV k := by
  have inBlock : k.toNat < (s.regsUpTo x).length := by rw [State.length_regsUpTo]; omega
  rw [read_afterStore hwf inBlock hlo (by unfold State.indexAddr; omega), State.getD_regsUpTo s x hk, regOfNat_toNat]

/-- Settles O33: the block V0..Vx, stored from I on. -/
theorem storeRegisterBlock : Obligations.StoreRegisterBlock := by
  refine fun x s hwf h => ⟨_, exec_ldMemVx_of_inRange h, fun k hk hlo => read_afterStore_regsUpTo hwf h hk hlo,
    fun a ha => read_afterStore_glyph s _ ha, rfl, ?_⟩
  rw [← State.length_regsUpTo s x]
  exact onlyChanges_afterStore s _

/-! ## A load of a block from I -/

/-- The state after V0..Vx were loaded from I on. -/
def State.afterLoad (s : State) (x : RegIdx) : State :=
  (s.writeRegsFrom 0 (s.mem.readBlock (s.indexAddr 0) (x.toNat + 1))).advance

theorem exec_ldVxMem (x : RegIdx) (s : State) :
    exec (.ldVxMem x) s =
      withIndexAccess .dataRead (encode (.ldVxMem x)) (x.toNat + 1) s (s.afterLoad x) := rfl

theorem exec_ldVxMem_of_inRange {x : RegIdx} {s : State} (h : s.i.toNat + x.toNat ≤ 0xFFF) :
    exec (.ldVxMem x) s = .next (s.afterLoad x) :=
  (exec_ldVxMem x s).trans (withIndexAccess_of_inRange (outOfRange_succ_eq_false h) _ _ _)

theorem readV_afterLoad (s : State) (x k : RegIdx) :
    (s.afterLoad x).readV k = if k ≤ x then s.mem.read (s.i.toNat + k.toNat) else s.readV k := by
  have hx := x.isLt
  rw [State.afterLoad, State.readV_advance, State.readV_writeRegsFrom _ _ _ (by rw [Memory.length_readBlock]; omega)]
  by_cases hk : k ≤ x
  · have inBlock : k.toNat < (s.mem.readBlock (s.indexAddr 0) (x.toNat + 1)).length := by
      rw [Memory.length_readBlock]
      exact Nat.lt_succ_of_le hk
    rw [if_pos hk, if_pos (by omega), Nat.sub_zero, List.getD_eq_getElem _ _ inBlock, Memory.getElem_readBlock]
    rfl
  · have outOfBlock : x.toNat < k.toNat := Nat.lt_of_not_le hk
    rw [if_neg hk, if_neg (by rw [Memory.length_readBlock]; omega)]

theorem onlyChanges_afterLoad (s : State) (x : RegIdx) :
    OnlyChanges (.pc :: (List.range (x.toNat + 1)).map fun k => .reg (BitVec.ofNat 4 k)) s (s.afterLoad x) := by
  refine ((OnlyChanges.refl s).writeRegsFrom _ fun j hj => ?_).advance (by simp)
  rw [Memory.length_readBlock] at hj
  exact List.mem_cons_of_mem _ (List.mem_map.2 ⟨0 + j, List.mem_range.2 (by omega), rfl⟩)

/-- Settles O34: the registers up to Vx come from the block, and the others, I and memory stay. -/
theorem loadRegisterBlock : Obligations.LoadRegisterBlock := fun x s h =>
  ⟨_, exec_ldVxMem_of_inRange h, fun k hk => by rw [readV_afterLoad, if_pos hk],
    fun k hk => by rw [readV_afterLoad, if_neg (BitVec.not_le.2 hk)], by simp [State.afterLoad],
    onlyChanges_afterLoad s x⟩

/-- Settles O36: the load reads back, from an I that the store left, what the store put there. -/
theorem storeThenLoadRestoresRegisters : Obligations.StoreThenLoadRestoresRegisters := by
  intro x s hwf hlo h
  have again : (s.afterStore (s.regsUpTo x)).i.toNat + x.toNat ≤ 0xFFF := h
  refine ⟨_, _, exec_ldMemVx_of_inRange h, exec_ldVxMem_of_inRange again, fun r => ?_, ?_⟩
  · rw [readV_afterLoad]
    split_ifs with hr
    · exact read_afterStore_regsUpTo hwf h hr (Nat.le_add_right_of_le hlo)
    · rfl
  · simp [State.afterLoad, State.afterStore]

theorem regOfNat_succ (k : RegIdx) : regOfNat (k.toNat + 1) = k + 1#4 := by
  rw [regOfNat, BitVec.ofNat_add, BitVec.ofNat_toNat, BitVec.setWidth_eq]

/-- Settles O37: the fetch reads the two stored registers. -/
theorem storedCodeIsFetched : Obligations.StoredCodeIsFetched := by
  intro x k s hwf hlo h hk
  have next : (k + 1#4).toNat = k.toNat + 1 := by rw [← regOfNat_succ, toNat_regOfNat (by omega)]
  have pc : (BitVec.ofNat 16 (s.i.toNat + k.toNat)).toNat = s.i.toNat + k.toNat :=
    toNat_ofNat_of_lt (by omega)
  refine ⟨_, exec_ldMemVx_of_inRange h, State.fetch_eq_some.2 ?_⟩
  simp only [pc]
  refine ⟨by omega, ?_⟩
  have first := read_afterStore_regsUpTo hwf h (k := k) (by omega) hlo
  have second := read_afterStore_regsUpTo hwf h (k := k + 1#4) (by omega) (by rw [next]; unfold State.indexAddr; omega)
  rw [next] at second
  exact congrArg₂ wordOfBytes first.symm second.symm

/-! ## Accesses outside memory -/

theorem exec_fault_of_outOfRange {i : Instr} {s e : State} {a : Access} {w : Word} {n : Nat}
    (he : exec i s = withIndexAccess a w n s e) (h : s.outOfRange n = true) :
    ∃ t r, exec i s = .next t ∧ t.halt = some r ∧ r.kind = .address a ∧ OnlyChanges [.halt] s t :=
  ⟨_, _, he.trans (withIndexAccess_of_outOfRange h a w e), rfl, rfl,
    (OnlyChanges.refl s).raiseFault _ _ _ (by simp)⟩

/-- Settles O35: the bound check comes before every effect. -/
theorem indexAccessOutsideMemoryFaults : Obligations.IndexAccessOutsideMemoryFaults := by
  refine fun x y n s => ⟨fun hn h => ?_, fun h => ?_, fun h => ⟨?_, ?_⟩⟩
  · exact exec_fault_of_outOfRange (exec_drw x y n s) ((s.outOfRange_iff _).2 ⟨hn, by rw [Config.maxAddr]; omega⟩)
  · exact exec_fault_of_outOfRange (exec_ldBVx x s) (outOfRange_succ_eq_true h)
  · exact exec_fault_of_outOfRange (exec_ldMemVx x s) (outOfRange_succ_eq_true h)
  · exact exec_fault_of_outOfRange (exec_ldVxMem x s) (outOfRange_succ_eq_true h)

/-! ## The loader -/

/-- Settles O58: a payload that fits is the block written at 0x200, which lies in writable memory. -/
theorem loadWritesOrRejects : Obligations.LoadWritesOrRejects := by
  refine fun s bytes hwf => ⟨fun h => s.load_oversize h, fun h => ⟨_, s.load_fits h, fun k hk => ?_, ?_⟩⟩
  · have writable :
        0x200 ≤ 0x200 + k ∧ 0x200 + k < 0x200 + bytes.length ∧ 0x50 ≤ 0x200 + k ∧ 0x200 + k ≤ 0xFFF := by omega
    rw [State.writeMem_mem, Memory.read_writeBlock hwf, if_pos writable, Nat.add_sub_cancel_left,
      List.getD_eq_getElem _ _ hk]
  · refine (OnlyChanges.refl s).writeMem fun a ha => Memory.read_writeBlock_of_not_mem _ _ _ fun hr => ha ?_
    obtain ⟨k, rfl⟩ := Nat.exists_eq_add_of_le hr.1
    exact List.mem_map.2 ⟨k, List.mem_range.2 (Nat.lt_of_add_lt_add_left hr.2), rfl⟩

end Sys2Proof.Machine
end

section
/-! PROOFS. The glyph ROM, reset, and the invariant over steps and host operations (spec/10_state.md R26, R29, R31,
R36-R38; spec/60_exceptions.md R253; spec/70_reset_and_hazards.md R280). -/

open Sys2Proof.Claims

namespace Sys2Proof.Machine

/-! ## What one instruction leaves in memory, the stack and PC -/

/-- The instructions that put something other than PC + 2 or PC + 4 in PC. -/
def isJump : Instr → Bool
  | .jp _ | .call _ | .jpV0 _ | .ret => true
  | _ => false

/-- The memory after an instruction is the one before with a block, empty for all but the two stores, written
from I on; and no instruction but a jump, a call and a return moves PC by other than 2 or 4
(spec/20_memory.md R60; spec/40_engine_cycle.md R124). -/
theorem ExecEffect.mem_pc {i : Instr} {s t : State} (e : ExecEffect i s t) :
    (∃ bs, t.mem = s.mem.writeBlock (s.indexAddr 0) bs) ∧
      (isJump i = false → t.pc = s.pc + 2#16 ∨ t.pc = s.pc + 4#16) := by
  cases i <;> simp only [ExecEffect] at e
  case ldBVx | ldMemVx => obtain ⟨-, rfl⟩ := e; exact ⟨⟨_, rfl⟩, fun _ => .inl rfl⟩
  case jp | jpV0 => subst e; exact ⟨⟨[], rfl⟩, fun hj => absurd hj.symm Bool.false_ne_true⟩
  case ret =>
    obtain ⟨a, u, hpop, rfl⟩ := e
    obtain ⟨_, -, rfl⟩ := State.popAddr_eq_some hpop
    exact ⟨⟨[], rfl⟩, fun hj => absurd hj.symm Bool.false_ne_true⟩
  case call =>
    obtain ⟨u, hpush, rfl⟩ := e
    obtain ⟨_, rfl⟩ := State.pushPC_eq_some hpush
    exact ⟨⟨[], rfl⟩, fun hj => absurd hj.symm Bool.false_ne_true⟩
  case seImm | sneImm | seReg | sneReg | skp | sknp =>
    obtain ⟨c, rfl⟩ := e
    refine ⟨⟨[], rfl⟩, fun _ => ?_⟩
    cases c
    · exact .inl rfl
    · exact .inr rfl
  case ldImm | addImm | ldReg | orReg | andReg | xorReg | ldVxDt | ldI | addIVx | ldFVx | drw =>
    obtain ⟨_, rfl⟩ := e
    exact ⟨⟨[], rfl⟩, fun _ => .inl rfl⟩
  case addReg | sub | shr | subn | shl | ldVxK =>
    obtain ⟨_, _, rfl⟩ := e
    exact ⟨⟨[], rfl⟩, fun _ => .inl rfl⟩
  case ldVxMem => obtain ⟨-, rfl⟩ := e; exact ⟨⟨[], by simp [Memory.writeBlock]⟩, fun _ => .inl (by simp)⟩
  all_goals subst e; exact ⟨⟨[], rfl⟩, fun _ => .inl rfl⟩

theorem ExecEffect.mem_eq {i : Instr} {s t : State} (e : ExecEffect i s t) :
    ∃ bs, t.mem = s.mem.writeBlock (s.indexAddr 0) bs :=
  e.mem_pc.1

theorem ExecEffect.pc_eq {i : Instr} {s t : State} (e : ExecEffect i s t) (hj : isJump i = false) :
    t.pc = s.pc + 2#16 ∨ t.pc = s.pc + 4#16 :=
  e.mem_pc.2 hj

/-- The addresses a jump goes to are at most 0x10FE, where no return address lies above 4094. -/
theorem ExecEffect.pc_le {i : Instr} {s t : State} (e : ExecEffect i s t) (hpc : s.pc.toNat ≤ 4094)
    (hstack : ∀ k : Fin 16, s.stack[k].toNat ≤ 4094) : t.pc.toNat ≤ 0x10FE := by
  cases i
  case jp nnn =>
    obtain rfl := e
    rw [State.toNat_pc_jumpTo_addr12]
    omega
  case call nnn =>
    obtain ⟨u, -, rfl⟩ := e
    rw [State.toNat_pc_jumpTo_addr12]
    omega
  case jpV0 nnn =>
    obtain rfl := e
    rw [State.jumpTo_pc, BitVec.toNat_ofNat]
    omega
  case ret =>
    obtain ⟨a, u, hpop, rfl⟩ := e
    obtain ⟨hpos, rfl, -⟩ := State.popAddr_eq_some hpop
    have top := hstack ⟨s.sp.val - 1, by omega⟩
    simp only [Fin.getElem_fin] at top
    rw [State.jumpTo_pc, BitVec.toNat_ofNat]
    omega
  all_goals rcases e.pc_eq rfl with h | h <;> rw [h] <;> bv_omega

/-- A stack slot changes only to the address of the CALL that takes it. -/
theorem exec_stack {i : Instr} {s t : State} (h : exec i s = .next t) (k : Fin 16) :
    t.stack[k] = s.stack[k] ∨ t.stack[k] = s.pc := by
  by_contra hne
  obtain ⟨changed, notPC⟩ := not_or.1 hne
  have hmem := mem_otherParts_of_changed (p := .slot k) h changed (by simp) (by simp) (by simp)
  have effect := execEffect_of_changed (p := .slot k) h changed (by simp) (by simp)
  cases i
  case call nnn =>
    have hk : k.val = s.sp.val := by simpa [otherParts] using hmem
    obtain ⟨u, hpush, rfl⟩ := effect
    obtain ⟨hs, rfl⟩ := State.pushPC_eq_some hpush
    exact notPC ((Vector.getElem_set hs k.isLt).trans (if_pos hk.symm))
  all_goals simp [otherParts, indexBytes] at hmem

/-! ## The glyph ROM -/

theorem exec_mem {i : Instr} {s t : State} (h : exec i s = .next t) :
    ∃ bs, t.mem = s.mem.writeBlock (s.indexAddr 0) bs := by
  rcases exec_cases h with ⟨k, a, rfl, -⟩ | ⟨x, -, -, rfl⟩ | e
  · exact ⟨[], rfl⟩
  · exact ⟨[], rfl⟩
  · exact e.mem_eq

/-- The memory after a step is the one before with a block, maybe empty, written to it. -/
theorem step_mem {s t : State} (h : step s = .next t) : ∃ a bs, t.mem = s.mem.writeBlock a bs := by
  rcases step_cases s with ⟨r, -, e⟩ | ⟨-, x, -, e⟩ | ⟨-, -, -, e⟩ | ⟨-, -, w, -, e⟩
  · obtain rfl := Host.Outcome.next.inj (e.symm.trans h)
    exact ⟨0, [], rfl⟩
  · exact ⟨_, exec_mem (i := .ldVxK x) (e.symm.trans h)⟩
  · obtain rfl := Host.Outcome.next.inj (e.symm.trans h)
    exact ⟨0, [], rfl⟩
  · exact ⟨_, exec_mem (e.symm.trans h)⟩

/-- Steps and host operations keep the glyph table; reset keeps it too and clears the rest. -/
theorem Event.apply_glyph (e : Event) (s : State) : (e.apply s).mem.glyph = s.mem.glyph := by
  cases e with
  | step =>
    obtain ⟨t, h⟩ := everyStepHasANextState s
    obtain ⟨a, bs, hmem⟩ := step_mem h
    rw [apply_event_step h, hmem, Memory.writeBlock_glyph]
  | host op =>
    cases op
    case load bytes =>
      obtain ⟨a, bs, e⟩ := s.load_eq_writeMem bytes
      simp [Event.apply, HostOp.apply, e]
    case tick | refreshKeys | readFramebuffer | readSoundTimer | readFault | reset => rfl

theorem runEvents_glyph (s : State) (es : List Event) : (runEvents s es).mem.glyph = s.mem.glyph := by
  induction es generalizing s with
  | nil => rfl
  | cons e es ih => exact (ih (e.apply s)).trans (e.apply_glyph s)

/-- Settles O51: below 0x050 memory reads as the glyph table, which every event keeps. -/
theorem glyphRomIsNeverMutated : Obligations.GlyphRomIsNeverMutated := by
  intro s es a ha
  simp only [Memory.read_glyph _ ha, runEvents_glyph]

/-! ## Reset -/

/-- Settles O59: every component of the state after reset, read off. -/
theorem resetSetsEveryComponent : Obligations.ResetSetsEveryComponent := by
  rintro s t rfl
  refine ⟨rfl, fun a ha => ?_, fun a ha => ?_, fun r => ?_, rfl, rfl, fun k => ?_, rfl, rfl, fun k => ?_,
    fun p _ => ?_, rfl, rfl, rfl⟩
  · simp only [Memory.read_glyph _ ha]
    rfl
  · exact Memory.read_of_le _ ha
  · exact Vector.getElem_replicate _
  · exact Vector.getElem_replicate _
  · exact Vector.getElem_replicate _
  · exact BitVec.getLsbD_zero

/-! ## The invariant -/

/-- The reset state meets the invariant, whatever the glyph table. -/
theorem inv_resetWith (g : Vector Byte Config.glyphSize) : (State.resetWith g).Inv where
  mem_wf := State.resetWith_mem_wf g
  pc_le := Nat.le_of_ble_eq_true rfl
  stack_le k := by simp [State.resetWith]
  wait_pc h := by simp [State.resetWith] at h
  halt_table _ h := by simp [State.resetWith] at h

/-- Settles O52: the reset state meets the invariant and holds no wait and no record. -/
theorem invariantHoldsAtReset : Obligations.InvariantHoldsAtReset := fun g => ⟨inv_resetWith g, rfl, rfl⟩

section
variable {s : State} (h : s.Inv)
include h

theorem State.Inv.raiseFault {k : FaultKind} {o : Option Word} {a : Option Nat}
    (hr : FaultRecord.ofTable ⟨k, k.code, s.pc, o, a⟩) : (s.raiseFault k o a).Inv where
  mem_wf := h.mem_wf
  pc_le := h.pc_le
  stack_le := h.stack_le
  wait_pc := h.wait_pc
  halt_table _ hrec := Option.some.inj hrec ▸ hr

theorem State.Inv.writeWait (w : Option RegIdx) (hpc : s.pc.toNat ≤ 4094) : (s.writeWait w).Inv where
  mem_wf := h.mem_wf
  pc_le := h.pc_le
  stack_le := h.stack_le
  wait_pc _ := hpc
  halt_table := h.halt_table

theorem State.Inv.keyWaitDone (x : RegIdx) (b : Byte) (hpc : s.pc.toNat ≤ 4094) :
    ((s.writeWait none).writeV x b).advance.Inv where
  mem_wf := h.mem_wf
  pc_le := by
    rw [State.advance_pc]
    change (s.pc + 2#16).toNat ≤ 0x10FE
    bv_omega
  stack_le := h.stack_le
  wait_pc hw := absurd hw (by simp)
  halt_table := h.halt_table

/-- A key wait at a fetchable PC, first or resumed, keeps the invariant. -/
theorem State.Inv.keyWaitResume {x : RegIdx} {t : State} (hpc : s.pc.toNat ≤ 4094)
    (ht : keyWaitResume x s = .next t) : t.Inv := by
  rcases keyWaitResume_cases x s with ⟨k, -, e⟩ | ⟨-, e⟩
  all_goals obtain rfl := Host.Outcome.next.inj (e.symm.trans ht)
  · exact h.keyWaitDone x _ hpc
  · exact h.writeWait _ hpc

/-- An instruction run at a fetchable PC, with no wait and no record, keeps the invariant. -/
theorem State.Inv.exec {i : Instr} {t : State} (hw : s.wait = none) (hpc : s.pc.toNat ≤ 4094)
    (ht : exec i s = .next t) : t.Inv := by
  rcases exec_cases ht with ⟨k, a, rfl, hk⟩ | ⟨x, -, -, rfl⟩ | e
  · exact h.raiseFault (hk.ofTable _ _)
  · exact h.writeWait _ hpc
  · obtain ⟨bs, hmem⟩ := e.mem_eq
    exact
      { mem_wf := hmem ▸ Memory.writeBlock_wf h.mem_wf _ bs
        pc_le := e.pc_le hpc h.stack_le
        stack_le := fun k => by
          rcases exec_stack ht k with hk | hk
          · exact hk ▸ h.stack_le k
          · exact hk ▸ hpc
        wait_pc := fun hsome => absurd hsome (by simp [e.wait_eq hw])
        halt_table := fun r hr => h.halt_table r (e.halt_eq ▸ hr) }

end

/-- Settles O53: halted, waiting, fetching or executing, a step keeps the invariant. -/
theorem stepKeepsInvariant : Obligations.StepKeepsInvariant := by
  intro s t h ht
  rcases step_cases s with ⟨r, -, e⟩ | ⟨-, x, hw, e⟩ | ⟨-, -, hf, e⟩ | ⟨-, hw, w, hf, e⟩
  all_goals have hnext := e.symm.trans ht
  · obtain rfl := Host.Outcome.next.inj hnext
    exact h
  · exact h.keyWaitResume (h.wait_pc (by simp [hw])) hnext
  · obtain rfl := Host.Outcome.next.inj hnext
    exact h.raiseFault (ofTable_fetch (State.fetch_eq_none.1 hf))
  · obtain ⟨hpc, -⟩ := State.fetch_eq_some.1 hf
    exact h.exec hw hpc hnext

/-- Every host operation keeps the invariant. -/
theorem State.Inv.hostOp {s : State} (h : s.Inv) (op : HostOp) : (op.apply s).2.Inv := by
  cases op
  case reset =>
    obtain ⟨mem_wf, pc_le, stack_le, wait_pc, halt_table⟩ := inv_resetWith s.mem.glyph
    exact ⟨mem_wf, pc_le, stack_le, wait_pc, halt_table⟩
  case load bytes =>
    obtain ⟨a, bs, e⟩ := s.load_eq_writeMem bytes
    simp only [HostOp.apply, e]
    exact ⟨Memory.writeBlock_wf h.mem_wf a bs, h.pc_le, h.stack_le, h.wait_pc, h.halt_table⟩
  case tick | refreshKeys | readFramebuffer | readSoundTimer | readFault =>
    exact ⟨h.mem_wf, h.pc_le, h.stack_le, h.wait_pc, h.halt_table⟩

theorem State.Inv.event {s : State} (h : s.Inv) (e : Event) : (e.apply s).Inv := by
  cases e with
  | step =>
    obtain ⟨t, ht⟩ := everyStepHasANextState s
    rw [apply_event_step ht]
    exact stepKeepsInvariant s t h ht
  | host op => exact h.hostOp op

/-- Settles O54: by induction on the list of events, each of which keeps the invariant. -/
theorem everyInterleavingKeepsInvariant : Obligations.EveryInterleavingKeepsInvariant := by
  intro s es h
  induction es generalizing s with
  | nil => exact h
  | cons e es ih => exact ih (e.apply s) (h.event e)

/-! ## PC as a number -/

theorem toNat_add_two {pc : Word} (h : pc.toNat ≤ 0x10FE) : (pc + 2#16).toNat = pc.toNat + 2 := by bv_omega

theorem toNat_add_four {pc : Word} (h : pc.toNat ≤ 0x10FE) : (pc + 4#16).toNat = pc.toNat + 4 := by bv_omega

theorem isJump_eq_false {i : Instr}
    (hj : (∀ nnn, i ≠ .jp nnn ∧ i ≠ .call nnn ∧ i ≠ .jpV0 nnn) ∧ i ≠ .ret) : isJump i = false := by
  obtain ⟨jumps, ret⟩ := hj
  cases i
  case jp nnn => obtain ⟨hjp, -, -⟩ := jumps nnn; exact absurd rfl hjp
  case call nnn => obtain ⟨-, hcall, -⟩ := jumps nnn; exact absurd rfl hcall
  case jpV0 nnn => obtain ⟨-, -, hjpV0⟩ := jumps nnn; exact absurd rfl hjpV0
  case ret => exact absurd rfl ret
  all_goals rfl

/-- Settles O55: the bound is the invariant's, and two or four more than a PC within it does not wrap. -/
theorem pcNeverWraps : Obligations.PCNeverWraps := by
  intro s t h hh ht
  refine ⟨(stepKeepsInvariant s t h ht).pc_le, fun hj => ?_⟩
  rw [← toNat_add_two h.pc_le, ← toNat_add_four h.pc_le]
  simp only [BitVec.toNat_inj]
  rcases step_cases s with ⟨r, hr, -⟩ | ⟨-, x, -, e⟩ | ⟨-, -, -, e⟩ | ⟨-, -, w, hf, e⟩
  · exact absurd hr (by simp [hh])
  · rcases keyWaitResume_cases x s with ⟨k, -, e'⟩ | ⟨-, e'⟩
    all_goals obtain rfl := Host.Outcome.next.inj ((e.trans e').symm.trans ht)
    · exact .inr (.inl rfl)
    · exact .inl rfl
  · obtain rfl := Host.Outcome.next.inj (e.symm.trans ht)
    exact .inl rfl
  · rcases exec_cases (e.symm.trans ht) with ⟨k, a, rfl, -⟩ | ⟨x, -, -, rfl⟩ | effect
    · exact .inl rfl
    · exact .inl rfl
    · exact .inr (effect.pc_eq (isJump_eq_false (hj w hf)))

end Sys2Proof.Machine
end
